-- ==== Sys2Proof/Word.lean ====
section
/-! DEFINITION. The word types of the CHIP-8 core. Every value of this hardware is unsigned
(00_scope.md R8). Field extraction and arithmetic helpers stand in Decode.lean and Machine/. -/

namespace Sys2Proof

/-- One memory cell, one V register, one timer, one 8-bit immediate (R5: `REG_W`, `TIMER_W`). -/
abbrev Byte := BitVec 8

/-- An instruction word, `I`, `pc`, a stack entry, the key state (R5: `I_W`, `PC_W`, `STACK_W`). -/
abbrev Word := BitVec 16

/-- A 4-bit field of an instruction word (glossary: "a 4-bit field of an opcode"). -/
abbrev Nibble := BitVec 4

/-- A register number as an instruction field holds it: every value 0 to 15 is valid (R73). -/
abbrev Reg := BitVec 4

/-- The 12-bit address field `nnn` of an instruction word (R71). -/
abbrev Addr12 := BitVec 12

end Sys2Proof
end

