-- ==== Sys2Proof/Syntax.lean ====
section
/-! DEFINITION. The 34 instructions of 30_encoding.md R75, one constructor per row of
spec/opcode_table.json, each with every field its row lists, ignored ones included (R76), so that an
instruction word can be rebuilt from its instruction bit for bit (R80). The inert kind UNKNOWN (R77) is
no row of the table: it is `Kind.unknown` of Decode.lean. -/

namespace Sys2Proof

/-- The instructions, in the order of R75. -/
inductive Instr where
  /-- `CLS`, pattern `0?E0` (R140); `x` is ignored. -/
  | cls (x : Nibble)
  /-- `RET`, pattern `0?EE` (R100); `x` is ignored. -/
  | ret (x : Nibble)
  /-- `JUMP nnn`, pattern `1nnn` (R101). -/
  | jump (nnn : Addr12)
  /-- `CALL nnn`, pattern `2nnn` (R102). -/
  | call (nnn : Addr12)
  /-- `SKIP.E Vx,kk`, pattern `3xkk` (R103). -/
  | skipEImm (x : Reg) (kk : Byte)
  /-- `SKIP.NE Vx,kk`, pattern `4xkk` (R104). -/
  | skipNeImm (x : Reg) (kk : Byte)
  /-- `SKIP.E Vx,Vy`, pattern `5xy?` (R105); `n` is ignored. -/
  | skipEReg (x y : Reg) (n : Nibble)
  /-- `MOV Vx,kk`, pattern `6xkk` (R111). -/
  | movImm (x : Reg) (kk : Byte)
  /-- `ADD Vx,kk`, pattern `7xkk` (R112). -/
  | addImm (x : Reg) (kk : Byte)
  /-- `MOV Vx,Vy`, pattern `8xy0` (R113). -/
  | movReg (x y : Reg)
  /-- `OR Vx,Vy`, pattern `8xy1` (R114). -/
  | orReg (x y : Reg)
  /-- `AND Vx,Vy`, pattern `8xy2` (R115). -/
  | andReg (x y : Reg)
  /-- `XOR Vx,Vy`, pattern `8xy3` (R116). -/
  | xorReg (x y : Reg)
  /-- `ADD Vx,Vy`, pattern `8xy4` (R117). -/
  | addReg (x y : Reg)
  /-- `SUB Vx,Vy`, pattern `8xy5` (R118). -/
  | subReg (x y : Reg)
  /-- `SHR Vx`, pattern `8xy6` (R120); `y` is ignored. -/
  | shr (x : Reg) (y : Nibble)
  /-- `SUBN Vx,Vy`, pattern `8xy7` (R119). -/
  | subnReg (x y : Reg)
  /-- `SHL Vx`, pattern `8xyE` (R121); `y` is ignored. -/
  | shl (x : Reg) (y : Nibble)
  /-- `SKIP.NE Vx,Vy`, pattern `9xy?` (R106); `n` is ignored. -/
  | skipNeReg (x y : Reg) (n : Nibble)
  /-- `MOV I,nnn`, pattern `Annn` (R130). -/
  | movI (nnn : Addr12)
  /-- `JUMP V0,nnn`, pattern `Bnnn` (R107). -/
  | jumpV0 (nnn : Addr12)
  /-- `RNDMSK Vx,kk`, pattern `Cxkk` (R122). -/
  | rndmsk (x : Reg) (kk : Byte)
  /-- `DRW Vx,Vy,n`, pattern `Dxyn` (R141). -/
  | drw (x y : Reg) (n : Nibble)
  /-- `SKIP.KY Vx`, pattern `Ex9E` (R150). -/
  | skipKy (x : Reg)
  /-- `SKIP.KN Vx`, pattern `ExA1` (R151). -/
  | skipKn (x : Reg)
  /-- `MOV Vx,DELAY`, pattern `Fx07` (R152). -/
  | movFromDelay (x : Reg)
  /-- `WAITKEY Vx`, pattern `Fx0A` (R153). -/
  | waitKey (x : Reg)
  /-- `MOV DELAY,Vx`, pattern `Fx15` (R154). -/
  | movDelay (x : Reg)
  /-- `MOV SOUND,Vx`, pattern `Fx18` (R155). -/
  | movSound (x : Reg)
  /-- `ADD I,Vx`, pattern `Fx1E` (R131). -/
  | addI (x : Reg)
  /-- `FONT I,Vx`, pattern `Fx29` (R132). -/
  | fontI (x : Reg)
  /-- `MOV.BCD Vx`, pattern `Fx33` (R133). -/
  | movBcd (x : Reg)
  /-- `MOV.MEM I,Vx`, pattern `Fx55` (R134): store registers. -/
  | memStore (x : Reg)
  /-- `MOV.MEM Vx,I`, pattern `Fx65` (R135): load registers. -/
  | memLoad (x : Reg)
  deriving DecidableEq, Repr

end Sys2Proof
end

