-- ==== Sys2Proof/WellFormed.lean ====
section
/-! DEFINITION. Well-formed instructions: the canonical encodings of 30_encoding.md R76, "the one an
assembler emits", with every ignored nibble 0. A register number, an immediate and an address are
well-formed at every value of their field (R73), so the ignored nibbles are the only checks. The machine
executes the other words too (R76); U1 asks a well-formedness check on ROMs to reject them. -/

namespace Sys2Proof

/-- The instruction's encoding is canonical: its ignored nibble, where it has one, is 0 (R76). -/
def Instr.wellFormed : Instr → Bool
  | .cls x | .ret x => x == 0
  | .skipEReg _ _ n | .skipNeReg _ _ n => n == 0
  | .shr _ y | .shl _ y => y == 0
  | .jump _ | .call _ | .skipEImm _ _ | .skipNeImm _ _ | .movImm _ _ | .addImm _ _ | .movReg _ _
  | .orReg _ _ | .andReg _ _ | .xorReg _ _ | .addReg _ _ | .subReg _ _ | .subnReg _ _ | .movI _
  | .jumpV0 _ | .rndmsk _ _ | .drw _ _ _ | .skipKy _ | .skipKn _ | .movFromDelay _ | .waitKey _
  | .movDelay _ | .movSound _ | .addI _ | .fontI _ | .movBcd _ | .memStore _ | .memLoad _ => true

/-- The same instruction with its ignored nibble 0: its canonical spelling (R76). -/
def Instr.canonical : Instr → Instr
  | .cls _ => .cls 0
  | .ret _ => .ret 0
  | .skipEReg x y _ => .skipEReg x y 0
  | .skipNeReg x y _ => .skipNeReg x y 0
  | .shr x _ => .shr x 0
  | .shl x _ => .shl x 0
  | .jump nnn => .jump nnn
  | .call nnn => .call nnn
  | .skipEImm x kk => .skipEImm x kk
  | .skipNeImm x kk => .skipNeImm x kk
  | .movImm x kk => .movImm x kk
  | .addImm x kk => .addImm x kk
  | .movReg x y => .movReg x y
  | .orReg x y => .orReg x y
  | .andReg x y => .andReg x y
  | .xorReg x y => .xorReg x y
  | .addReg x y => .addReg x y
  | .subReg x y => .subReg x y
  | .subnReg x y => .subnReg x y
  | .movI nnn => .movI nnn
  | .jumpV0 nnn => .jumpV0 nnn
  | .rndmsk x kk => .rndmsk x kk
  | .drw x y n => .drw x y n
  | .skipKy x => .skipKy x
  | .skipKn x => .skipKn x
  | .movFromDelay x => .movFromDelay x
  | .waitKey x => .waitKey x
  | .movDelay x => .movDelay x
  | .movSound x => .movSound x
  | .addI x => .addI x
  | .fontI x => .fontI x
  | .movBcd x => .movBcd x
  | .memStore x => .memStore x
  | .memLoad x => .memLoad x

end Sys2Proof
end

