-- ==== Sys2Proof/Decode.lean ====
section
/-! DEFINITION. The decoder (30_encoding.md R70 to R83): the six fields of a word, the dispatch rule R74,
the opcode map R75 as data, the encoder (R80), and the decoder's output with its mnemonic and operand
text (R79, R81, R82). Decoding is total: a word of no row is `Kind.unknown` (R77). -/

namespace Sys2Proof

/-! ## Fields (R71) -/

/-- `op = w[15:12]`, the primary dispatch key. -/
def opField (w : Word) : Nibble := w.extractLsb' 12 4

/-- `x = w[11:8]`, the first register index. -/
def xField (w : Word) : Nibble := w.extractLsb' 8 4

/-- `y = w[7:4]`, the second register index. -/
def yField (w : Word) : Nibble := w.extractLsb' 4 4

/-- `n = w[3:0]`, the 4-bit immediate. -/
def nField (w : Word) : Nibble := w.extractLsb' 0 4

/-- `kk = w[7:0]`, the 8-bit immediate. -/
def kkField (w : Word) : Byte := w.extractLsb' 0 8

/-- `nnn = w[11:0]`, the 12-bit address. -/
def nnnField (w : Word) : Addr12 := w.extractLsb' 0 12

/-! ## Dispatch (R74) -/

/-- What a word decodes to: one of the 34 instructions, or the inert kind UNKNOWN (R77). -/
inductive Kind where
  /-- A word of the opcode map R75. -/
  | instr (i : Instr)
  /-- Every other word: "never an error". -/
  | unknown
  deriving DecidableEq, Repr

/-- `op = 0x0`: the secondary key is `kk`, and `x` is not tested. -/
def decodeOp0 (w : Word) : Kind :=
  match kkField w with
  | 0xE0 => .instr (.cls (xField w))
  | 0xEE => .instr (.ret (xField w))
  | _ => .unknown

/-- `op = 0x8`: the secondary key is `n`. -/
def decodeOp8 (w : Word) : Kind :=
  match nField w with
  | 0x0 => .instr (.movReg (xField w) (yField w))
  | 0x1 => .instr (.orReg (xField w) (yField w))
  | 0x2 => .instr (.andReg (xField w) (yField w))
  | 0x3 => .instr (.xorReg (xField w) (yField w))
  | 0x4 => .instr (.addReg (xField w) (yField w))
  | 0x5 => .instr (.subReg (xField w) (yField w))
  | 0x6 => .instr (.shr (xField w) (yField w))
  | 0x7 => .instr (.subnReg (xField w) (yField w))
  | 0xE => .instr (.shl (xField w) (yField w))
  | _ => .unknown

/-- `op = 0xE`: the secondary key is `kk`. -/
def decodeOpE (w : Word) : Kind :=
  match kkField w with
  | 0x9E => .instr (.skipKy (xField w))
  | 0xA1 => .instr (.skipKn (xField w))
  | _ => .unknown

/-- `op = 0xF`: the secondary key is `kk`. -/
def decodeOpF (w : Word) : Kind :=
  match kkField w with
  | 0x07 => .instr (.movFromDelay (xField w))
  | 0x0A => .instr (.waitKey (xField w))
  | 0x15 => .instr (.movDelay (xField w))
  | 0x18 => .instr (.movSound (xField w))
  | 0x1E => .instr (.addI (xField w))
  | 0x29 => .instr (.fontI (xField w))
  | 0x33 => .instr (.movBcd (xField w))
  | 0x55 => .instr (.memStore (xField w))
  | 0x65 => .instr (.memLoad (xField w))
  | _ => .unknown

/-- The dispatch rule R74: total, never fails. The last arm is `op = 0xF`. -/
def decodeKind (w : Word) : Kind :=
  match opField w with
  | 0x0 => decodeOp0 w
  | 0x1 => .instr (.jump (nnnField w))
  | 0x2 => .instr (.call (nnnField w))
  | 0x3 => .instr (.skipEImm (xField w) (kkField w))
  | 0x4 => .instr (.skipNeImm (xField w) (kkField w))
  | 0x5 => .instr (.skipEReg (xField w) (yField w) (nField w))
  | 0x6 => .instr (.movImm (xField w) (kkField w))
  | 0x7 => .instr (.addImm (xField w) (kkField w))
  | 0x8 => decodeOp8 w
  | 0x9 => .instr (.skipNeReg (xField w) (yField w) (nField w))
  | 0xA => .instr (.movI (nnnField w))
  | 0xB => .instr (.jumpV0 (nnnField w))
  | 0xC => .instr (.rndmsk (xField w) (kkField w))
  | 0xD => .instr (.drw (xField w) (yField w) (nField w))
  | 0xE => decodeOpE w
  | _ => decodeOpF w

/-- The word two fetched bytes make: the byte at the lower address is the high byte (20_memory.md R54). -/
def wordOfBytes (hi lo : Byte) : Word := hi ++ lo

/-- The high byte of a word, which lies at the lower address (R54). -/
def hiByte (w : Word) : Byte := w.extractLsb' 8 8

/-- The low byte of a word, which lies at the higher address (R54). -/
def loByte (w : Word) : Byte := w.extractLsb' 0 8

/-- The decoder on the two bytes of an instruction, in memory order. -/
def decodeBytes (hi lo : Byte) : Kind := decodeKind (wordOfBytes hi lo)

/-! ## The encoder (R72, R75, R80) -/

/-- The four nibbles of a word put together (R80: `w = op ++ x ++ y ++ n`). -/
def assembleXYN (op x y n : Nibble) : Word := op ++ x ++ y ++ n

/-- A word of format `XK`, `XS` or `Z` (R72). -/
def assembleXK (op x : Nibble) (kk : Byte) : Word := op ++ x ++ kk

/-- A word of format `A` (R72). -/
def assembleA (op : Nibble) (nnn : Addr12) : Word := op ++ nnn

/-- The word of an instruction, ignored nibbles as the instruction holds them. -/
def Instr.encode : Instr → Word
  | .cls x => assembleXK 0x0 x 0xE0
  | .ret x => assembleXK 0x0 x 0xEE
  | .jump nnn => assembleA 0x1 nnn
  | .call nnn => assembleA 0x2 nnn
  | .skipEImm x kk => assembleXK 0x3 x kk
  | .skipNeImm x kk => assembleXK 0x4 x kk
  | .skipEReg x y n => assembleXYN 0x5 x y n
  | .movImm x kk => assembleXK 0x6 x kk
  | .addImm x kk => assembleXK 0x7 x kk
  | .movReg x y => assembleXYN 0x8 x y 0x0
  | .orReg x y => assembleXYN 0x8 x y 0x1
  | .andReg x y => assembleXYN 0x8 x y 0x2
  | .xorReg x y => assembleXYN 0x8 x y 0x3
  | .addReg x y => assembleXYN 0x8 x y 0x4
  | .subReg x y => assembleXYN 0x8 x y 0x5
  | .shr x y => assembleXYN 0x8 x y 0x6
  | .subnReg x y => assembleXYN 0x8 x y 0x7
  | .shl x y => assembleXYN 0x8 x y 0xE
  | .skipNeReg x y n => assembleXYN 0x9 x y n
  | .movI nnn => assembleA 0xA nnn
  | .jumpV0 nnn => assembleA 0xB nnn
  | .rndmsk x kk => assembleXK 0xC x kk
  | .drw x y n => assembleXYN 0xD x y n
  | .skipKy x => assembleXK 0xE x 0x9E
  | .skipKn x => assembleXK 0xE x 0xA1
  | .movFromDelay x => assembleXK 0xF x 0x07
  | .waitKey x => assembleXK 0xF x 0x0A
  | .movDelay x => assembleXK 0xF x 0x15
  | .movSound x => assembleXK 0xF x 0x18
  | .addI x => assembleXK 0xF x 0x1E
  | .fontI x => assembleXK 0xF x 0x29
  | .movBcd x => assembleXK 0xF x 0x33
  | .memStore x => assembleXK 0xF x 0x55
  | .memLoad x => assembleXK 0xF x 0x65

/-! ## The opcode map as data (R75) -/

/-- A row of R75: a word `w` is the instruction iff `w &&& mask = pattern`. -/
structure OpcodeRow where
  /-- Mnemonic and operand form, the instruction's unique name (R81). -/
  form : String
  /-- The bits the decoder tests. -/
  mask : Word
  /-- Their values. -/
  pattern : Word
  deriving DecidableEq, Repr

/-- The row of R75 an instruction belongs to. -/
def Instr.row : Instr → OpcodeRow
  | .cls _ => ⟨"CLS", 0xF0FF, 0x00E0⟩
  | .ret _ => ⟨"RET", 0xF0FF, 0x00EE⟩
  | .jump _ => ⟨"JUMP nnn", 0xF000, 0x1000⟩
  | .call _ => ⟨"CALL nnn", 0xF000, 0x2000⟩
  | .skipEImm _ _ => ⟨"SKIP.E Vx,kk", 0xF000, 0x3000⟩
  | .skipNeImm _ _ => ⟨"SKIP.NE Vx,kk", 0xF000, 0x4000⟩
  | .skipEReg _ _ _ => ⟨"SKIP.E Vx,Vy", 0xF000, 0x5000⟩
  | .movImm _ _ => ⟨"MOV Vx,kk", 0xF000, 0x6000⟩
  | .addImm _ _ => ⟨"ADD Vx,kk", 0xF000, 0x7000⟩
  | .movReg _ _ => ⟨"MOV Vx,Vy", 0xF00F, 0x8000⟩
  | .orReg _ _ => ⟨"OR Vx,Vy", 0xF00F, 0x8001⟩
  | .andReg _ _ => ⟨"AND Vx,Vy", 0xF00F, 0x8002⟩
  | .xorReg _ _ => ⟨"XOR Vx,Vy", 0xF00F, 0x8003⟩
  | .addReg _ _ => ⟨"ADD Vx,Vy", 0xF00F, 0x8004⟩
  | .subReg _ _ => ⟨"SUB Vx,Vy", 0xF00F, 0x8005⟩
  | .shr _ _ => ⟨"SHR Vx", 0xF00F, 0x8006⟩
  | .subnReg _ _ => ⟨"SUBN Vx,Vy", 0xF00F, 0x8007⟩
  | .shl _ _ => ⟨"SHL Vx", 0xF00F, 0x800E⟩
  | .skipNeReg _ _ _ => ⟨"SKIP.NE Vx,Vy", 0xF000, 0x9000⟩
  | .movI _ => ⟨"MOV I,nnn", 0xF000, 0xA000⟩
  | .jumpV0 _ => ⟨"JUMP V0,nnn", 0xF000, 0xB000⟩
  | .rndmsk _ _ => ⟨"RNDMSK Vx,kk", 0xF000, 0xC000⟩
  | .drw _ _ _ => ⟨"DRW Vx,Vy,n", 0xF000, 0xD000⟩
  | .skipKy _ => ⟨"SKIP.KY Vx", 0xF0FF, 0xE09E⟩
  | .skipKn _ => ⟨"SKIP.KN Vx", 0xF0FF, 0xE0A1⟩
  | .movFromDelay _ => ⟨"MOV Vx,DELAY", 0xF0FF, 0xF007⟩
  | .waitKey _ => ⟨"WAITKEY Vx", 0xF0FF, 0xF00A⟩
  | .movDelay _ => ⟨"MOV DELAY,Vx", 0xF0FF, 0xF015⟩
  | .movSound _ => ⟨"MOV SOUND,Vx", 0xF0FF, 0xF018⟩
  | .addI _ => ⟨"ADD I,Vx", 0xF0FF, 0xF01E⟩
  | .fontI _ => ⟨"FONT I,Vx", 0xF0FF, 0xF029⟩
  | .movBcd _ => ⟨"MOV.BCD Vx", 0xF0FF, 0xF033⟩
  | .memStore _ => ⟨"MOV.MEM I,Vx", 0xF0FF, 0xF055⟩
  | .memLoad _ => ⟨"MOV.MEM Vx,I", 0xF0FF, 0xF065⟩

/-- R75: the 34 rows, in the table's order. -/
def opcodeTable : List OpcodeRow :=
  [⟨"CLS", 0xF0FF, 0x00E0⟩,
   ⟨"RET", 0xF0FF, 0x00EE⟩,
   ⟨"JUMP nnn", 0xF000, 0x1000⟩,
   ⟨"CALL nnn", 0xF000, 0x2000⟩,
   ⟨"SKIP.E Vx,kk", 0xF000, 0x3000⟩,
   ⟨"SKIP.NE Vx,kk", 0xF000, 0x4000⟩,
   ⟨"SKIP.E Vx,Vy", 0xF000, 0x5000⟩,
   ⟨"MOV Vx,kk", 0xF000, 0x6000⟩,
   ⟨"ADD Vx,kk", 0xF000, 0x7000⟩]  ++
  [⟨"MOV Vx,Vy", 0xF00F, 0x8000⟩,
   ⟨"OR Vx,Vy", 0xF00F, 0x8001⟩,
   ⟨"AND Vx,Vy", 0xF00F, 0x8002⟩,
   ⟨"XOR Vx,Vy", 0xF00F, 0x8003⟩,
   ⟨"ADD Vx,Vy", 0xF00F, 0x8004⟩,
   ⟨"SUB Vx,Vy", 0xF00F, 0x8005⟩,
   ⟨"SHR Vx", 0xF00F, 0x8006⟩,
   ⟨"SUBN Vx,Vy", 0xF00F, 0x8007⟩,
   ⟨"SHL Vx", 0xF00F, 0x800E⟩]  ++
  [⟨"SKIP.NE Vx,Vy", 0xF000, 0x9000⟩,
   ⟨"MOV I,nnn", 0xF000, 0xA000⟩,
   ⟨"JUMP V0,nnn", 0xF000, 0xB000⟩,
   ⟨"RNDMSK Vx,kk", 0xF000, 0xC000⟩,
   ⟨"DRW Vx,Vy,n", 0xF000, 0xD000⟩,
   ⟨"SKIP.KY Vx", 0xF0FF, 0xE09E⟩,
   ⟨"SKIP.KN Vx", 0xF0FF, 0xE0A1⟩,
   ⟨"MOV Vx,DELAY", 0xF0FF, 0xF007⟩,
   ⟨"WAITKEY Vx", 0xF0FF, 0xF00A⟩]  ++
  [⟨"MOV DELAY,Vx", 0xF0FF, 0xF015⟩,
   ⟨"MOV SOUND,Vx", 0xF0FF, 0xF018⟩,
   ⟨"ADD I,Vx", 0xF0FF, 0xF01E⟩,
   ⟨"FONT I,Vx", 0xF0FF, 0xF029⟩,
   ⟨"MOV.BCD Vx", 0xF0FF, 0xF033⟩,
   ⟨"MOV.MEM I,Vx", 0xF0FF, 0xF055⟩,
   ⟨"MOV.MEM Vx,I", 0xF0FF, 0xF065⟩]

/-! ## Mnemonic and operand text (R81, R82) -/

/-- The mnemonic string (R81). Several instructions share one. -/
def Instr.mnemonic : Instr → String
  | .cls _ => "CLS"
  | .ret _ => "RET"
  | .jump _ => "JUMP"
  | .call _ => "CALL"
  | .skipEImm _ _ => "SKIP.E"
  | .skipNeImm _ _ => "SKIP.NE"
  | .skipEReg _ _ _ => "SKIP.E"
  | .movImm _ _ => "MOV"
  | .addImm _ _ => "ADD"
  | .movReg _ _ => "MOV"
  | .orReg _ _ => "OR"
  | .andReg _ _ => "AND"
  | .xorReg _ _ => "XOR"
  | .addReg _ _ => "ADD"
  | .subReg _ _ => "SUB"
  | .shr _ _ => "SHR"
  | .subnReg _ _ => "SUBN"
  | .shl _ _ => "SHL"
  | .skipNeReg _ _ _ => "SKIP.NE"
  | .movI _ => "MOV"
  | .jumpV0 _ => "JUMP"
  | .rndmsk _ _ => "RNDMSK"
  | .drw _ _ _ => "DRW"
  | .skipKy _ => "SKIP.KY"
  | .skipKn _ => "SKIP.KN"
  | .movFromDelay _ => "MOV"
  | .waitKey _ => "WAITKEY"
  | .movDelay _ => "MOV"
  | .movSound _ => "MOV"
  | .addI _ => "ADD"
  | .fontI _ => "FONT"
  | .movBcd _ => "MOV.BCD"
  | .memStore _ => "MOV.MEM"
  | .memLoad _ => "MOV.MEM"

/-- The mnemonic of a kind: UNKNOWN is written `unknown` (R81). -/
def Kind.mnemonic : Kind → String
  | .instr i => i.mnemonic
  | .unknown => "unknown"

/-- One hexadecimal digit, in capitals as in "0x3C" (R82). -/
def hexDigit (d : Nat) : Char :=
  "0123456789ABCDEF".toList.getD d '0'

/-- `k` as `0x` and the given number of hexadecimal digits (R82). -/
def hexText (digits k : Nat) : List Char :=
  "0x".toList ++ (List.range digits).reverse.map fun j => hexDigit (k / 16 ^ j % 16)

/-- `kk` as "0x3C" (R82). -/
def byteText (kk : Byte) : List Char := hexText 2 kk.toNat

/-- `nnn` as "0x234" (R82). -/
def addrText (nnn : Addr12) : List Char := hexText 3 nnn.toNat

/-- A register as `V` and its number in decimal, `V0` to `V15` (R82). -/
def regText (x : Reg) : List Char :=
  'V' :: ((if 10 ≤ x.toNat then ['1'] else []) ++ [hexDigit (x.toNat % 10)])

/-- Every accepted spelling of a register: decimal, and `VA` to `VF` for 10 to 15 (R20, R82). -/
def regSpellings (x : Reg) : List (List Char) :=
  regText x :: (if 10 ≤ x.toNat then [['V', hexDigit x.toNat]] else [])

/-- Operands separated by commas without spaces (R82). -/
def joinOperands : List (List Char) → List Char
  | [] => []
  | [t] => t
  | t :: u :: ts => t ++ ',' :: joinOperands (u :: ts)

/-- The operand text of an instruction, in the order R75 writes the operands (R82). -/
def Instr.operandChars : Instr → List Char
  | .cls _ => []
  | .ret _ => []
  | .jump nnn => addrText nnn
  | .call nnn => addrText nnn
  | .skipEImm x kk => joinOperands [regText x, byteText kk]
  | .skipNeImm x kk => joinOperands [regText x, byteText kk]
  | .skipEReg x y _ => joinOperands [regText x, regText y]
  | .movImm x kk => joinOperands [regText x, byteText kk]
  | .addImm x kk => joinOperands [regText x, byteText kk]
  | .movReg x y => joinOperands [regText x, regText y]
  | .orReg x y => joinOperands [regText x, regText y]
  | .andReg x y => joinOperands [regText x, regText y]
  | .xorReg x y => joinOperands [regText x, regText y]
  | .addReg x y => joinOperands [regText x, regText y]
  | .subReg x y => joinOperands [regText x, regText y]
  | .shr x _ => regText x
  | .subnReg x y => joinOperands [regText x, regText y]
  | .shl x _ => regText x
  | .skipNeReg x y _ => joinOperands [regText x, regText y]
  | .movI nnn => joinOperands ["I".toList, addrText nnn]
  | .jumpV0 nnn => joinOperands ["V0".toList, addrText nnn]
  | .rndmsk x kk => joinOperands [regText x, byteText kk]
  | .drw x y n => joinOperands [regText x, regText y, hexText 1 n.toNat]
  | .skipKy x => regText x
  | .skipKn x => regText x
  | .movFromDelay x => joinOperands [regText x, "DELAY".toList]
  | .waitKey x => regText x
  | .movDelay x => joinOperands ["DELAY".toList, regText x]
  | .movSound x => joinOperands ["SOUND".toList, regText x]
  | .addI x => joinOperands ["I".toList, regText x]
  | .fontI x => joinOperands ["I".toList, regText x]
  | .movBcd x => regText x
  | .memStore x => joinOperands ["I".toList, regText x]
  | .memLoad x => joinOperands [regText x, "I".toList]

/-- The operand text of a kind; UNKNOWN has none (R82). -/
def Kind.operandChars : Kind → List Char
  | .instr i => i.operandChars
  | .unknown => []

/-! ## The decoder's output (R79) -/

/-- What `decode` returns: the word, the six fields, the kind, the two strings, and the source address
when the caller supplies one (R79). Only the fields and the kind affect execution. -/
structure Decoded where
  /-- The word `w`. -/
  word : Word
  /-- `w[15:12]`. -/
  op : Nibble
  /-- `w[11:8]`. -/
  x : Nibble
  /-- `w[7:4]`. -/
  y : Nibble
  /-- `w[3:0]`. -/
  n : Nibble
  /-- `w[7:0]`. -/
  kk : Byte
  /-- `w[11:0]`. -/
  nnn : Addr12
  /-- One of the 34 instructions or UNKNOWN. -/
  kind : Kind
  /-- The mnemonic string. -/
  mnemonic : String
  /-- The operand text. -/
  operands : String
  /-- The address the word was fetched from, where the caller gives it. -/
  source : Option Word
  deriving DecidableEq, Repr

/-- `decode(w)` with all its output (R79). -/
def decode (w : Word) (source : Option Word) : Decoded :=
  { word := w, op := opField w, x := xField w, y := yField w, n := nField w
    kk := kkField w, nnn := nnnField w, kind := decodeKind w
    mnemonic := (decodeKind w).mnemonic
    operands := String.ofList (decodeKind w).operandChars
    source := source }

/-- Re-assembling the four nibbles of a decoded instruction (R80). -/
def Decoded.reassemble (d : Decoded) : Word := assembleXYN d.op d.x d.y d.n

/-- The instruction the decoder reads from a word given as a number whose bit 0 is the word's least
significant bit; bits above `nbits` are 0. The word is laid out as memory holds it, high byte first. -/
def decodeTableWord (nbits w : Nat) : Option Instr :=
  let word : Word := BitVec.ofNat 16 (w % 2 ^ nbits)
  match decodeBytes (hiByte word) (loByte word) with
  | .instr i => some i
  | .unknown => none

end Sys2Proof
end

