-- ==== Sys2Proof/Config.lean ====
section
/-! DEFINITION. What an implementation fixes: the fixed parameters of 00_scope.md R5, the record `CFG`
of open parameters (R6), and the free random byte (R7, 42_alu.md R122). The default values of `CFG`
stand in Machine/Defaults.lean. -/

namespace Sys2Proof.Config

/-- Bytes of memory (R5 `MEM_SIZE`). -/
def memSize : Nat := 4096

/-- Greatest number of return addresses held (R5 `STACK_DEPTH`). -/
def stackDepth : Nat := 16

/-- Columns of the display (R5 `DISP_COLS`). -/
def dispCols : Nat := 64

/-- Rows of the display (R5 `DISP_ROWS`). -/
def dispRows : Nat := 32

/-- Bytes of one instruction (R5 `INSTR_BYTES`). -/
def instrBytes : Nat := 2

/-- Bytes of one glyph (R5 `GLYPH_BYTES`). -/
def glyphBytes : Nat := 5

/-- Bytes of the font table: 16 glyphs of 5 bytes (R58). -/
abbrev fontBytes : Nat := 80

/-- The record `CFG` of open parameters (R6). It is fixed for one machine; State holds it so that a
statement over all states is a statement over all parameters (assumption 1). -/
structure Cfg where
  /-- `FONT_BASE`: first address of the font table. -/
  fontBase : Addr12
  /-- `FONT_DATA`: the 80 glyph bytes written at reset. -/
  fontData : Vector Byte 80
  /-- `ADD_I_DOUBLES`: true makes `ADD I,Vx` compute `I + I + V[x]` (R131). -/
  addIDoubles : Bool
  /-- `BULK_BY_VALUE`: true makes the bound of `MOV.MEM` the value `V[x]`, false the field `x` (R134). -/
  bulkByValue : Bool
  deriving DecidableEq, Repr

/-- The constraint R6 puts on `CFG`: `FONT_BASE + 80 <= 0x200`. -/
abbrev Cfg.wf (c : Cfg) : Prop := c.fontBase.toNat + fontBytes ≤ 0x200

/-- FREE VALUE (assumption 2). The random byte `rnd` of R7 and R122, "a free input under no law, drawn
afresh for each cycle": `rnd k` is the k-th byte drawn. It has no body, so nothing can be proved of it. -/
opaque rnd : Nat → Byte

end Sys2Proof.Config
end

