-- ==== Sys2Proof/Machine/Defaults.lean ====
section
/-! DEFINITION. The values the spec gives the open parameters by default (00_scope.md R6) and the reset
value of the program counter (10_state.md R24). -/

namespace Sys2Proof.Machine

/-- The customary hexadecimal font of 20_memory.md R58, glyphs 0 to 7, 5 bytes each, top row first. -/
def fontLow : Vector Byte 40 :=
  #v[0xF0, 0x90, 0x90, 0x90, 0xF0,
    0x20, 0x60, 0x20, 0x20, 0x70,
    0xF0, 0x10, 0xF0, 0x80, 0xF0,
    0xF0, 0x10, 0xF0, 0x10, 0xF0,
    0x90, 0x90, 0xF0, 0x10, 0x10,
    0xF0, 0x80, 0xF0, 0x10, 0xF0,
    0xF0, 0x80, 0xF0, 0x90, 0xF0,
    0xF0, 0x10, 0x20, 0x40, 0x40]

/-- The customary hexadecimal font of R58, glyphs 8 to F. -/
def fontHigh : Vector Byte 40 :=
  #v[0xF0, 0x90, 0xF0, 0x90, 0xF0,
    0xF0, 0x90, 0xF0, 0x10, 0xF0,
    0xF0, 0x90, 0xF0, 0x90, 0x90,
    0xE0, 0x90, 0xE0, 0x90, 0xE0,
    0xF0, 0x80, 0x80, 0x80, 0xF0,
    0xE0, 0x90, 0x90, 0x90, 0xE0,
    0xF0, 0x80, 0xF0, 0x80, 0xF0,
    0xF0, 0x80, 0xF0, 0x80, 0x80]

/-- `CFG.FONT_DATA` by default: 16 glyphs of 5 bytes (R58, decision D4). -/
def defaultFont : Vector Byte 80 := fontLow ++ fontHigh

/-- The default `CFG` of R6: `FONT_BASE = 0x000`, the customary font, `ADD_I_DOUBLES = false`,
`BULK_BY_VALUE = true` (decisions D3 to D6). -/
def defaultCfg : Config.Cfg :=
  { fontBase := 0x000, fontData := defaultFont, addIDoubles := false, bulkByValue := true }

/-- The reset value of `pc`, the entry point (R24, R191, decision D2; `ROM_BASE` of R5). -/
def resetPc : Word := 0x0200

end Sys2Proof.Machine
end

