-- ==== Sys2Proof/Machine/State.lean ====
section
/-! DEFINITION. The machine state of 10_state.md, as plain data, with the environment's events (R33), the
halt causes (R30), the ways a step can stop, and the reset state (R36, 70_reset_and_hazards.md R190). -/

namespace Sys2Proof.Machine

/-- The values of `CAUSE` (R30, 60_exceptions.md R170). -/
inductive Cause where
  /-- 0 `NONE`. -/
  | none
  /-- 1 `STACK_UNDERFLOW`: `RET` on an empty stack. -/
  | stackUnderflow
  /-- 2 `PC_OOB`: the program counter is past the end of memory. -/
  | pcOob
  /-- 3 `STACK_OVERFLOW`: `CALL` on a full stack. -/
  | stackOverflow
  deriving DecidableEq, Repr

/-- The input events of R33. The byte `rnd` that R33 gives `Run` and `SingleStep` is `Config.rnd` at
`State.draws` (assumption 2). -/
inductive Event where
  /-- One cycle; enabled when `PAUSED = 0`. -/
  | run
  /-- One cycle; enabled when `PAUSED = 1`. -/
  | singleStep
  /-- Both timers count down. -/
  | timerTick
  /-- `KEYS <- k`. -/
  | keySet (k : Word)
  /-- `PAUSED <- b`. -/
  | pause (b : Bool)
  /-- The reset state. -/
  | reset
  /-- The bytes of a ROM are copied to memory from `base` on. -/
  | romLoad (base : Nat) (bytes : List Byte)
  deriving DecidableEq, Repr

/-- `DISP`: 32 rows of 64 cells, row 0 the top, column 0 the left (R27). -/
abbrev Display := Vector (Vector Bool 64) 32

/-- Memory as the cells that differ from the reset contents, sorted by address (assumption 7). -/
abbrev Memory := List Host.Cell

/-- The machine state: the tuple of 10_state.md, the configuration `CFG`, and the model's two own fields
`draws` and `inputs`. -/
structure State where
  /-- `V[0]` to `V[15]`; `V[15]` is the flag register VF (R20, R21). -/
  v : Vector Byte 16
  /-- The address register `I` (R22). -/
  i : Word
  /-- The program counter (R23). -/
  pc : Word
  /-- The call stack, newest entry first; `SP` is its length (R25, assumption 6). -/
  stack : List Word
  /-- `DT`, the delay timer (R26). -/
  dt : Byte
  /-- `ST`, the sound timer (R26). -/
  st : Byte
  /-- `DISP`, the display buffer (R27). -/
  disp : Display
  /-- `KEYS`, bit `k` is 1 while key `k` is down (R28). -/
  keys : Word
  /-- `PAUSED` (R29). -/
  paused : Bool
  /-- `CAUSE`, why the last halt happened (R30). -/
  cause : Cause
  /-- `MEM`, 4096 bytes (R31). -/
  mem : Memory
  /-- `CFG` (00_scope.md R6): the model's own field, written by no step (assumption 1). -/
  cfg : Config.Cfg
  /-- How many random bytes have been drawn: the model's own field (assumption 2). -/
  draws : Nat
  /-- The events the environment presents next: the model's own field (assumption 3). -/
  inputs : List Event
  deriving DecidableEq, Repr

/-- Why a step stops. No instruction raises a fault: the spec's halts are next states (assumption 4). -/
inductive Fault where
  /-- The environment presents `Run` while `PAUSED = 1`, or `SingleStep` while `PAUSED = 0`, which R33 does
  not enable. Raised by `step` alone. Safe: the machine has no such transition (assumption 5). -/
  | eventNotEnabled
  deriving DecidableEq, Repr

/-- Why an instruction has no meaning. -/
inductive Refusal where
  /-- Raised by an arm of `exec` whose instruction has no meaning yet; no arm does. Safe. -/
  | notModelled (mnemonic : String)
  deriving DecidableEq, Repr

/-- The reset state of R36 and R190 for a machine with configuration `c`. -/
def State.resetWith (c : Config.Cfg) : State :=
  { v := Vector.replicate 16 0, i := 0, pc := resetPc, stack := [], dt := 0, st := 0
    disp := Vector.replicate 32 (Vector.replicate 64 false), keys := 0, paused := false, cause := .none
    mem := [], cfg := c, draws := 0, inputs := [] }

/-- The machine right after reset, with the default configuration of R6. -/
def State.reset : State := State.resetWith defaultCfg

end Sys2Proof.Machine
end

