-- ==== Sys2Proof/Machine/Memory.lean ====
section
/-! DEFINITION. `MEM` as a sorted list of the cells that differ from the reset contents (20_memory.md R50,
R58; assumption 7). Keys are cell numbers 0 to 4095. -/

namespace Sys2Proof.Machine

/-- What a cell holds after reset, which is what an unlisted cell reads as: the font table at
`CFG.FONT_BASE`, 0x00 elsewhere (R36, R58, R190). -/
def resetByte (c : Config.Cfg) (a : Nat) : Byte :=
  if h : c.fontBase.toNat ≤ a ∧ a < c.fontBase.toNat + 80 then
    c.fontData[a - c.fontBase.toNat]'(by omega)
  else 0

/-- The byte listed for a cell, if any. -/
def memLookup : Memory → Nat → Option Byte
  | [], _ => none
  | (k, b) :: rest, a => if k = a then some b else memLookup rest a

/-- List a byte for a cell, keeping the list sorted. -/
def memInsert : Memory → Nat → Byte → Memory
  | [], a, b => [(a, b)]
  | (k, x) :: rest, a, b =>
    if a < k then (a, b) :: (k, x) :: rest
    else if a = k then (a, b) :: rest
    else (k, x) :: memInsert rest a b

/-- List nothing for a cell. -/
def memErase (m : Memory) (a : Nat) : Memory := m.filter fun e => e.1 ≠ a

/-- The byte a cell holds. -/
def memGet (c : Config.Cfg) (m : Memory) (a : Nat) : Byte := (memLookup m a).getD (resetByte c a)

/-- Store a byte in a cell; the byte an unlisted cell reads as is not listed. -/
def memPut (c : Config.Cfg) (m : Memory) (a : Nat) (b : Byte) : Memory :=
  if b = resetByte c a then memErase m a else memInsert m a b

/-- The canonical form: addresses strictly rising, all below 4096, and no entry equal to what an unlisted
cell reads as. -/
abbrev Memory.wf (c : Config.Cfg) (m : Memory) : Prop :=
  m.Pairwise (fun p q => p.1 < q.1) ∧ ∀ e ∈ m, e.1 < 4096 ∧ e.2 ≠ resetByte c e.1

end Sys2Proof.Machine
end

