-- ==== Sys2Proof/Machine/Ops.lean ====
section
/-! DEFINITION. The named operations over the state: the primitives of 00_scope.md R9, the stack of
10_state.md R25, the framebuffer cell of 44_display.md R142, and halt entry with the way out of it
(60_exceptions.md R177, R179). -/

namespace Sys2Proof.Machine

/-! ## Truncation (R9) -/

/-- `trunc8(v) = v mod 256`. -/
def trunc8 (k : Nat) : Byte := BitVec.ofNat 8 k

/-- `trunc16(v) = v mod 65536`. -/
def trunc16 (k : Nat) : Word := BitVec.ofNat 16 k

/-! ## Registers -/

/-- `V[x]` (R20). -/
def State.getV (s : State) (x : Reg) : Byte := s.v[x.toNat]'x.isLt

/-- `V[x] <- b` (R20). -/
def State.setV (s : State) (x : Reg) (b : Byte) : State := { s with v := s.v.set x.toNat b x.isLt }

/-- `I <- w` (R22). -/
def State.setI (s : State) (w : Word) : State := { s with i := w }

/-- `pc <- w` (R23). -/
def State.setPc (s : State) (w : Word) : State := { s with pc := w }

/-- `DT <- b` (R26). -/
def State.setDt (s : State) (b : Byte) : State := { s with dt := b }

/-- `ST <- b` (R26). -/
def State.setSt (s : State) (b : Byte) : State := { s with st := b }

/-- `KEYS <- k` (R28). -/
def State.setKeys (s : State) (k : Word) : State := { s with keys := k }

/-- Write the whole display buffer (R27). -/
def State.setDisp (s : State) (d : Display) : State := { s with disp := d }

/-! ## Memory (20_memory.md R51 to R53) -/

/-- `MEM[a]`, the cell number `a` (R31, R61). -/
def State.byteAt (s : State) (a : Nat) : Byte := memGet s.cfg s.mem a

/-- The effective address `addr mod 4096` (R51). -/
def effAddr (addr : Nat) : Nat := addr % Config.memSize

/-- `MemRead(addr, 1)` (R52). -/
def State.memRead (s : State) (addr : Nat) : Byte := s.byteAt (effAddr addr)

/-- `MemWrite(addr, 1, b)` (R53). -/
def State.memWrite (s : State) (addr : Nat) (b : Byte) : State :=
  { s with mem := memPut s.cfg s.mem (effAddr addr) b }

/-! ## The call stack (R25) -/

/-- `SP`, the number of entries held. -/
def State.sp (s : State) : Nat := s.stack.length

/-- Push: `STACK[SP] <- w; SP <- SP + 1`. -/
def State.push (s : State) (w : Word) : State := { s with stack := w :: s.stack }

/-- Drop the newest entry: `SP <- SP - 1`. -/
def State.dropTop (s : State) : State := { s with stack := s.stack.tail }

/-! ## The random draw (42_alu.md R122) -/

/-- The random byte the next draw gives: the free value of assumption 2. -/
def State.rnd (s : State) : Byte := Config.rnd s.draws

/-- The draw is consumed, so the next one is fresh. -/
def State.consumeDraw (s : State) : State := { s with draws := s.draws + 1 }

/-! ## The framebuffer (44_display.md R142) -/

/-- `DISP[row][col]`; false outside the 32 by 64 grid, which has no such cell. -/
def dispCell (d : Display) (row col : Nat) : Bool :=
  if h : row < 32 ∧ col < 64 then (d[row]'h.1)[col]'h.2 else false

/-- `if col <= 63 and row <= 31 then DISP[row][col] <- DISP[row][col] ^ 1` (R141): a cell outside the grid
is dropped. -/
def dispFlip (d : Display) (row col : Nat) : Display :=
  if h : row ≤ 31 ∧ col ≤ 63 then
    d.set row ((d[row]'(by omega)).set col (!(d[row]'(by omega))[col]'(by omega)) (by omega)) (by omega)
  else d

/-- A display with every cell off (R140). -/
def dispClear : Display := Vector.replicate 32 (Vector.replicate 64 false)

/-! ## Halts (R177, R179) -/

/-- `raise Halt(cause)`: `PAUSED <- 1`, `CAUSE <- cause`, and nothing else (R177). It is the one operation
by which an exceptional outcome is taken. -/
def State.raiseHalt (s : State) (c : Cause) : State := { s with paused := true, cause := c }

/-- The way out of a halt: `Pause(0)` clears `PAUSED` and `CAUSE`; nothing is restored, because nothing was
saved (R33, R179). -/
def State.resume (s : State) : State := { s with paused := false, cause := .none }

/-- `Pause(1)`: `PAUSED <- 1` (R33). -/
def State.suspend (s : State) : State := { s with paused := true }

end Sys2Proof.Machine
end

