-- ==== Sys2Proof/Machine/Operands.lean ====
section
/-! DEFINITION. Operand forms: widened immediates (30_encoding.md R73), the skip (41_flow.md R103), the key
bit (45_keys_timers.md R150), the bulk bound and loops (43_index_memory.md R134, R135), decimal digits
(R133), glyph addresses (R132) and sprite rows (44_display.md R141). -/

namespace Sys2Proof.Machine

/-- `zext_16(nnn)` (R9, R73). -/
def zextAddr (nnn : Addr12) : Word := nnn.zeroExtend 16

/-- `zext_16(b)` (R9). -/
def zextByte (b : Byte) : Word := b.zeroExtend 16

/-- `if c then pc <- pc + 2`: skip the following instruction (R103). -/
def State.skipIf (s : State) (c : Bool) : State := if c then s.setPc (s.pc + 2) else s

/-- `k <= 15 and KEYS[k] = 1`: a missing bit reads 0 (R150, decision D18). -/
def State.keyDown (s : State) (k : Nat) : Bool := decide (k ≤ 15) && s.keys.getLsbD k

/-- The bound `m` of `MOV.MEM`: the value `V[x]` or the field `x`, as `CFG.BULK_BY_VALUE` says (R134). -/
def State.bulkBound (s : State) (x : Reg) : Nat :=
  if s.cfg.bulkByValue then (s.getV x).toNat else x.toNat

/-- `for i in 0..m: MemWrite(I + i, 1, V[i])` (R134), in ascending order (R55). -/
def State.storeRegs (s : State) (m : Nat) : State :=
  (List.range (m + 1)).foldl (fun t k => t.memWrite (t.i.toNat + k) (t.getV (BitVec.ofNat 4 k))) s

/-- `for i in 0..m: V[i] <- MemRead(I + i, 1)` (R135), in ascending order (R55). -/
def State.loadRegs (s : State) (m : Nat) : State :=
  (List.range (m + 1)).foldl (fun t k => t.setV (BitVec.ofNat 4 k) (t.memRead (t.i.toNat + k))) s

/-- The hundreds digit of a byte (R133). -/
def bcdHundreds (b : Byte) : Byte := trunc8 (b.toNat / 100)

/-- The tens digit of a byte (R133). -/
def bcdTens (b : Byte) : Byte := trunc8 (b.toNat / 10 % 10)

/-- The ones digit of a byte (R133). -/
def bcdOnes (b : Byte) : Byte := trunc8 (b.toNat % 10)

/-- `CFG.FONT_BASE + 5 * d`: the address of glyph `d` (R58, R132). -/
def glyphAddr (c : Config.Cfg) (d : Nat) : Word := trunc16 (c.fontBase.toNat + Config.glyphBytes * d)

/-- The eight pixels of one sprite row with byte `b`, its left edge at column `left` of display row `row`:
bit 7 is the leftmost pixel (R141, decision D17); coordinates are not truncated. -/
def spriteRow (left row : Nat) (b : Byte) (d : Display) : Display :=
  (List.range 8).foldl (fun d c => if b.getLsbD (7 - c) then dispFlip d row (left + c) else d) d

/-- The display after drawing the `n` sprite rows at `I`, left edge `left`, top edge `top` (R141). -/
def State.drawSprite (s : State) (left top n : Nat) : Display :=
  (List.range n).foldl (fun d r => spriteRow left (top + r) (s.memRead (s.i.toNat + r)) d) s.disp

end Sys2Proof.Machine
end

