-- ==== Sys2Proof/Machine/Flags.lean ====
section
/-! DEFINITION. The flag computations of the five flag-writing instructions (42_alu.md R110, R117 to R121),
and the order of their two writes. -/

namespace Sys2Proof.Machine

/-- The flag register VF is `V[15]` (10_state.md R21). -/
abbrev vf : Reg := 15

/-- A flag as the byte 1 or 0. -/
def flagByte (c : Bool) : Byte := if c then 1 else 0

/-- Carry out of the 9-bit sum: 1 iff `vx + vy > 255` (R117). -/
def carryFlag (vx vy : Byte) : Byte := flagByte (decide (vx.toNat + vy.toNat > 255))

/-- 1 iff the minuend is strictly greater than the subtrahend (R118, R119). -/
def noBorrowFlag (a b : Byte) : Byte := flagByte (decide (a.toNat > b.toNat))

/-- The bit a right shift by one shifts out: `vx & 1` (R120). -/
def shrFlag (vx : Byte) : Byte := flagByte (vx.getLsbD 0)

/-- The bit a left shift by one shifts out: `(vx >> 7) & 1` (R121). -/
def shlFlag (vx : Byte) : Byte := flagByte (vx.getLsbD 7)

/-- The two writes of a flag-writing instruction: `V[15] <- flag`, then `V[x] <- result` (R110). -/
def State.writeFlagged (s : State) (x : Reg) (flag result : Byte) : State := (s.setV vf flag).setV x result

end Sys2Proof.Machine
end

