-- ==== Sys2Proof/Machine/Alu.lean ====
section
/-! DEFINITION. Register and ALU instructions (42_alu.md). Operands are read once, before any write; a
flag-writing instruction writes VF first and the result last (R110). -/

namespace Sys2Proof.Machine

/-- `MOV Vx,kk` (R111). -/
def execMovImm (x : Reg) (kk : Byte) (s : State) : Host.Outcome State Fault Refusal :=
  .next (s.setV x kk)

/-- `ADD Vx,kk` (R112): wraps, writes no flag. -/
def execAddImm (x : Reg) (kk : Byte) (s : State) : Host.Outcome State Fault Refusal :=
  .next (s.setV x (trunc8 ((s.getV x).toNat + kk.toNat)))

/-- `MOV Vx,Vy` (R113). -/
def execMovReg (x y : Reg) (s : State) : Host.Outcome State Fault Refusal :=
  .next (s.setV x (s.getV y))

/-- `OR Vx,Vy` (R114): VF is left alone. -/
def execOrReg (x y : Reg) (s : State) : Host.Outcome State Fault Refusal :=
  .next (s.setV x (s.getV x ||| s.getV y))

/-- `AND Vx,Vy` (R115): VF is left alone. -/
def execAndReg (x y : Reg) (s : State) : Host.Outcome State Fault Refusal :=
  .next (s.setV x (s.getV x &&& s.getV y))

/-- `XOR Vx,Vy` (R116): VF is left alone. -/
def execXorReg (x y : Reg) (s : State) : Host.Outcome State Fault Refusal :=
  .next (s.setV x (s.getV x ^^^ s.getV y))

/-- `ADD Vx,Vy` (R117): VF is the carry out of the 9-bit sum. -/
def execAddReg (x y : Reg) (s : State) : Host.Outcome State Fault Refusal :=
  let vx := s.getV x
  let vy := s.getV y
  .next (s.writeFlagged x (carryFlag vx vy) (trunc8 (vx.toNat + vy.toNat)))

/-- `SUB Vx,Vy` (R118): VF is 1 iff `vx > vy`. -/
def execSubReg (x y : Reg) (s : State) : Host.Outcome State Fault Refusal :=
  let vx := s.getV x
  let vy := s.getV y
  .next (s.writeFlagged x (noBorrowFlag vx vy) (trunc8 (256 + vx.toNat - vy.toNat)))

/-- `SUBN Vx,Vy` (R119): VF is 1 iff `vy > vx`. -/
def execSubnReg (x y : Reg) (s : State) : Host.Outcome State Fault Refusal :=
  let vx := s.getV x
  let vy := s.getV y
  .next (s.writeFlagged x (noBorrowFlag vy vx) (trunc8 (256 + vy.toNat - vx.toNat)))

/-- `SHR Vx` (R120): VF is the bit shifted out; `y` is not read. -/
def execShr (x : Reg) (s : State) : Host.Outcome State Fault Refusal :=
  let vx := s.getV x
  .next (s.writeFlagged x (shrFlag vx) (vx >>> 1))

/-- `SHL Vx` (R121): VF is the bit shifted out; `y` is not read. -/
def execShl (x : Reg) (s : State) : Host.Outcome State Fault Refusal :=
  let vx := s.getV x
  .next (s.writeFlagged x (shlFlag vx) (trunc8 (vx.toNat * 2)))

/-- `RNDMSK Vx,kk` (R122): a fresh random byte and `kk`. -/
def execRndmsk (x : Reg) (kk : Byte) (s : State) : Host.Outcome State Fault Refusal :=
  .next (s.consumeDraw.setV x (s.rnd &&& kk))

end Sys2Proof.Machine
end

