-- ==== Sys2Proof/Machine/Display.lean ====
section
/-! DEFINITION. Display instructions (44_display.md). Neither writes VF. -/

namespace Sys2Proof.Machine

/-- `CLS` (R140). -/
def execCls (s : State) : Host.Outcome State Fault Refusal :=
  .next (s.setDisp dispClear)

/-- `DRW Vx,Vy,n` (R141): XOR an `n`-row sprite read at `I`, left edge `V[x]`, top edge `V[y]`; pixels outside
the grid are dropped; VF is not written. -/
def execDrw (x y : Reg) (n : Nibble) (s : State) : Host.Outcome State Fault Refusal :=
  .next (s.setDisp (s.drawSprite (s.getV x).toNat (s.getV y).toNat n.toNat))

end Sys2Proof.Machine
end

