-- ==== Sys2Proof/Machine/Flow.lean ====
section
/-! DEFINITION. Control transfer (41_flow.md). In every rule `pc` already holds `a + 2`, where `a` is the
address the instruction was fetched from (40_cycle.md R93). -/

namespace Sys2Proof.Machine

/-- `RET` (R100): pop the stack into `pc`; on an empty stack halt with `STACK_UNDERFLOW`. -/
def execRet (s : State) : Host.Outcome State Fault Refusal :=
  match s.stack with
  | [] => .next (s.raiseHalt .stackUnderflow)
  | w :: _ => .next (s.dropTop.setPc w)

/-- `JUMP nnn` (R101). -/
def execJump (nnn : Addr12) (s : State) : Host.Outcome State Fault Refusal :=
  .next (s.setPc (zextAddr nnn))

/-- `CALL nnn` (R102): push the advanced `pc`, then jump; on a full stack halt with `STACK_OVERFLOW`. -/
def execCall (nnn : Addr12) (s : State) : Host.Outcome State Fault Refusal :=
  if s.sp < Config.stackDepth then .next ((s.push s.pc).setPc (zextAddr nnn))
  else .next (s.raiseHalt .stackOverflow)

/-- `SKIP.E Vx,kk` (R103). -/
def execSkipEImm (x : Reg) (kk : Byte) (s : State) : Host.Outcome State Fault Refusal :=
  .next (s.skipIf (s.getV x == kk))

/-- `SKIP.NE Vx,kk` (R104). -/
def execSkipNeImm (x : Reg) (kk : Byte) (s : State) : Host.Outcome State Fault Refusal :=
  .next (s.skipIf (s.getV x != kk))

/-- `SKIP.E Vx,Vy` (R105). -/
def execSkipEReg (x y : Reg) (s : State) : Host.Outcome State Fault Refusal :=
  .next (s.skipIf (s.getV x == s.getV y))

/-- `SKIP.NE Vx,Vy` (R106). -/
def execSkipNeReg (x y : Reg) (s : State) : Host.Outcome State Fault Refusal :=
  .next (s.skipIf (s.getV x != s.getV y))

/-- `JUMP V0,nnn` (R107): the sum is not masked to 12 bits. -/
def execJumpV0 (nnn : Addr12) (s : State) : Host.Outcome State Fault Refusal :=
  .next (s.setPc (zextAddr nnn + zextByte (s.getV 0)))

end Sys2Proof.Machine
end

