-- ==== Sys2Proof/Machine/IndexMemory.lean ====
section
/-! DEFINITION. Address-register and memory instructions (43_index_memory.md). Every data address is reduced
modulo 4096 (20_memory.md R51); `I` is not changed by an access (R136). -/

namespace Sys2Proof.Machine

/-- `MOV I,nnn` (R130). -/
def execMovI (nnn : Addr12) (s : State) : Host.Outcome State Fault Refusal :=
  .next (s.setI (zextAddr nnn))

/-- `ADD I,Vx` (R131): 16-bit, no flag; `CFG.ADD_I_DOUBLES` selects the observed `I + I + V[x]`. -/
def execAddI (x : Reg) (s : State) : Host.Outcome State Fault Refusal :=
  let vx := s.getV x
  .next (s.setI (if s.cfg.addIDoubles then trunc16 (s.i.toNat + s.i.toNat + vx.toNat)
    else trunc16 (s.i.toNat + vx.toNat)))

/-- `FONT I,Vx` (R132): skipped silently when `V[x] > 15`. -/
def execFontI (x : Reg) (s : State) : Host.Outcome State Fault Refusal :=
  let vx := s.getV x
  .next (if vx.toNat ≤ 15 then s.setI (glyphAddr s.cfg vx.toNat) else s)

/-- `MOV.BCD Vx` (R133): hundreds, tens, ones at `I`, `I + 1`, `I + 2`. -/
def execMovBcd (x : Reg) (s : State) : Host.Outcome State Fault Refusal :=
  let vx := s.getV x
  let a := s.i.toNat
  .next (((s.memWrite a (bcdHundreds vx)).memWrite (a + 1) (bcdTens vx)).memWrite (a + 2) (bcdOnes vx))

/-- `MOV.MEM I,Vx` (R134): store `V[0]` to `V[m]`; skipped silently when `m >= 16`. -/
def execMemStore (x : Reg) (s : State) : Host.Outcome State Fault Refusal :=
  let m := s.bulkBound x
  .next (if m < 16 then s.storeRegs m else s)

/-- `MOV.MEM Vx,I` (R135): load `V[0]` to `V[m]`; the bound is read once, before the first load. -/
def execMemLoad (x : Reg) (s : State) : Host.Outcome State Fault Refusal :=
  let m := s.bulkBound x
  .next (if m < 16 then s.loadRegs m else s)

end Sys2Proof.Machine
end

