-- ==== Sys2Proof/Machine/KeysTimers.lean ====
section
/-! DEFINITION. Key and timer instructions (45_keys_timers.md). -/

namespace Sys2Proof.Machine

/-- `SKIP.KY Vx` (R150): the index is the register's 8-bit value. -/
def execSkipKy (x : Reg) (s : State) : Host.Outcome State Fault Refusal :=
  .next (s.skipIf (s.keyDown (s.getV x).toNat))

/-- `SKIP.KN Vx` (R151): the complement of `SKIP.KY`. -/
def execSkipKn (x : Reg) (s : State) : Host.Outcome State Fault Refusal :=
  .next (s.skipIf (!s.keyDown (s.getV x).toNat))

/-- `MOV Vx,DELAY` (R152). -/
def execMovFromDelay (x : Reg) (s : State) : Host.Outcome State Fault Refusal :=
  .next (s.setV x s.dt)

/-- `WAITKEY Vx` (R153): while no key is down `pc` goes back to this instruction; else the low byte of the
key mask is written. -/
def execWaitKey (x : Reg) (s : State) : Host.Outcome State Fault Refusal :=
  .next (if s.keys = 0 then s.setPc (s.pc - 2) else s.setV x (s.keys.extractLsb' 0 8))

/-- `MOV DELAY,Vx` (R154). -/
def execMovDelay (x : Reg) (s : State) : Host.Outcome State Fault Refusal :=
  .next (s.setDt (s.getV x))

/-- `MOV SOUND,Vx` (R155). -/
def execMovSound (x : Reg) (s : State) : Host.Outcome State Fault Refusal :=
  .next (s.setSt (s.getV x))

end Sys2Proof.Machine
end

