-- ==== Sys2Proof/Machine/Dispatch.lean ====
section
/-! DEFINITION. Applying an instruction, step 6 of the cycle (40_cycle.md R90, R95): `pc` already holds the
address of the next sequential instruction. -/

namespace Sys2Proof.Machine

def exec (i : Instr) (s : State) : Host.Outcome State Fault Refusal :=
  match i with
  | .cls _ => Sys2Proof.Machine.execCls s
  | .ret _ => Sys2Proof.Machine.execRet s
  | .jump nnn => Sys2Proof.Machine.execJump nnn s
  | .call nnn => Sys2Proof.Machine.execCall nnn s
  | .skipEImm x kk => Sys2Proof.Machine.execSkipEImm x kk s
  | .skipNeImm x kk => Sys2Proof.Machine.execSkipNeImm x kk s
  | .skipEReg x y _ => Sys2Proof.Machine.execSkipEReg x y s
  | .movImm x kk => Sys2Proof.Machine.execMovImm x kk s
  | .addImm x kk => Sys2Proof.Machine.execAddImm x kk s
  | .movReg x y => Sys2Proof.Machine.execMovReg x y s
  | .orReg x y => Sys2Proof.Machine.execOrReg x y s
  | .andReg x y => Sys2Proof.Machine.execAndReg x y s
  | .xorReg x y => Sys2Proof.Machine.execXorReg x y s
  | .addReg x y => Sys2Proof.Machine.execAddReg x y s
  | .subReg x y => Sys2Proof.Machine.execSubReg x y s
  | .shr x _ => Sys2Proof.Machine.execShr x s
  | .subnReg x y => Sys2Proof.Machine.execSubnReg x y s
  | .shl x _ => Sys2Proof.Machine.execShl x s
  | .skipNeReg x y _ => Sys2Proof.Machine.execSkipNeReg x y s
  | .movI nnn => Sys2Proof.Machine.execMovI nnn s
  | .jumpV0 nnn => Sys2Proof.Machine.execJumpV0 nnn s
  | .rndmsk x kk => Sys2Proof.Machine.execRndmsk x kk s
  | .drw x y n => Sys2Proof.Machine.execDrw x y n s
  | .skipKy x => Sys2Proof.Machine.execSkipKy x s
  | .skipKn x => Sys2Proof.Machine.execSkipKn x s
  | .movFromDelay x => Sys2Proof.Machine.execMovFromDelay x s
  | .waitKey x => Sys2Proof.Machine.execWaitKey x s
  | .movDelay x => Sys2Proof.Machine.execMovDelay x s
  | .movSound x => Sys2Proof.Machine.execMovSound x s
  | .addI x => Sys2Proof.Machine.execAddI x s
  | .fontI x => Sys2Proof.Machine.execFontI x s
  | .movBcd x => Sys2Proof.Machine.execMovBcd x s
  | .memStore x => Sys2Proof.Machine.execMemStore x s
  | .memLoad x => Sys2Proof.Machine.execMemLoad x s

end Sys2Proof.Machine
end

