-- ==== Sys2Proof/Machine/Cycle.lean ====
section
/-! DEFINITION. The fetch-decode-execute cycle (40_cycle.md R90) and the inert kind UNKNOWN (R96). -/

namespace Sys2Proof.Machine

/-- `Fetch(pc)`: the word at `pc`, the byte at the lower address high (20_memory.md R54). -/
def State.fetchWord (s : State) : Word := wordOfBytes (s.byteAt s.pc.toNat) (s.byteAt (s.pc.toNat + 1))

/-- Step 4 of the cycle: `pc <- pc + 2` (R93). -/
def State.advance (s : State) : State := s.setPc (s.pc + 2)

/-- `UNKNOWN` (R96): no effect of its own. -/
def execUnknown (s : State) : Host.Outcome State Fault Refusal := .next s

/-- Step 6 of the cycle: apply the decoded kind (R95). -/
def applyKind (k : Kind) (s : State) : Host.Outcome State Fault Refusal :=
  match k with
  | .instr i => exec i s
  | .unknown => execUnknown s

/-- One cycle (R90): fetch guard (R91), fetch and decode (R92), advance (R93), advance guard (R94), apply
(R95). It does not read `PAUSED` (R98). -/
def cycle (s : State) : Host.Outcome State Fault Refusal :=
  if s.pc.toNat > 0xFFE then .next (s.raiseHalt .pcOob)
  else
    let k := decodeKind s.fetchWord
    let t := s.advance
    if t.pc.toNat > 0xFFF then .next (t.raiseHalt .pcOob) else applyKind k t

end Sys2Proof.Machine
end

