-- ==== Sys2Proof/Machine/Events.lean ====
section
/-! DEFINITION. The effects of the environment's events (10_state.md R33). -/

namespace Sys2Proof.Machine

/-- A timer one tick later: "decrements by 1 while > 0; never wraps below 0" (45_keys_timers.md R156). -/
def tickDown (b : Byte) : Byte := if b.toNat > 0 then b - 1 else b

/-- `TimerTick` (R156): each timer on its own. -/
def State.timerTick (s : State) : State := (s.setDt (tickDown s.dt)).setSt (tickDown s.st)

/-- `Pause(b)` (R33): `PAUSED <- b`; if `b = 0` then `CAUSE <- NONE`. -/
def State.setPause (s : State) (b : Bool) : State := if b then s.suspend else s.resume

/-- `Reset` (70_reset_and_hazards.md R190). The configuration stays, and so do the model's own fields: the
draws made and the events still to come are no state of the hardware. -/
def State.resetEvent (s : State) : State :=
  { State.resetWith s.cfg with draws := s.draws, inputs := s.inputs }

/-- `RomLoad(base, bytes)` (20_memory.md R60): ascending, dropping bytes beyond 0xFFF. -/
def State.romLoad (s : State) (base : Nat) : List Byte → State
  | [] => s
  | b :: bs => if base ≤ 0xFFF then (s.memWrite base b).romLoad (base + 1) bs else s

/-- One event (R33). `Run` and `SingleStep` are enabled by `PAUSED`; the others always. -/
def applyEvent (e : Event) (s : State) : Host.Outcome State Fault Refusal :=
  match e with
  | .run => if s.paused then .fault .eventNotEnabled else cycle s
  | .singleStep => if s.paused then cycle s else .fault .eventNotEnabled
  | .timerTick => .next s.timerTick
  | .keySet k => .next (s.setKeys k)
  | .pause b => .next (s.setPause b)
  | .reset => .next s.resetEvent
  | .romLoad base bytes => .next (s.romLoad base bytes)

/-- The machine moves by one event: the next one the environment has listed, or, where it lists none, the
driver's `Run` if the machine is not paused (40_cycle.md R98), and nothing while it is paused (R29). -/
def nextEvent (s : State) : Host.Outcome State Fault Refusal :=
  match s.inputs with
  | e :: es => applyEvent e { s with inputs := es }
  | [] => if s.paused then .next s else cycle s

/-- An instruction's two bytes stored where the next step fetches: at `pc`, or at 0x200 where nothing is
fetched and applied at `pc` (R91, R94). The next event is made the one that runs a cycle: none need be
listed for a running machine with none to come, else `Run`, or `SingleStep` while it is paused. -/
def State.placeWord (s : State) (w : Word) : State :=
  let a : Word := if s.pc.toNat ≤ 0xFFD then s.pc else resetPc
  let t := ((s.setPc a).memWrite a.toNat (hiByte w)).memWrite (a.toNat + 1) (loByte w)
  { t with inputs := match s.paused, s.inputs with
      | true, es => .singleStep :: es
      | false, [] => []
      | false, e :: es => .run :: e :: es }

end Sys2Proof.Machine
end

