-- ==== Sys2Proof/Machine/Step.lean ====
section
/-! DEFINITION. The step of the machine and the placing of an instruction for it. -/

namespace Sys2Proof.Machine

/-- One step: one atomic event (10_state.md R33, 40_cycle.md R97). -/
def step (s : State) : Host.Outcome State Fault Refusal := nextEvent s

/-- The instruction whose bits are `w` (bit 0 the least significant of the word; bits above `nbits` are 0)
stored where `step` fetches its next instruction. -/
def State.withFetchWord (s : State) (nbits w : Nat) : State := s.placeWord (BitVec.ofNat 16 (w % 2 ^ nbits))

end Sys2Proof.Machine
end

