-- ==== Sys2Proof/Machine/Accessors.lean ====
section
/-! DEFINITION. The output accessors of 10_state.md R34: pure reads of the current state, one for every piece
of it (60_exceptions.md R186). -/

namespace Sys2Proof.Machine

/-- The code of a halt cause (R30, 60_exceptions.md R170). -/
def causeCode : Cause → BitVec 2
  | .none => 0
  | .stackUnderflow => 1
  | .pcOob => 2
  | .stackOverflow => 3

/-- Display buffer snapshot: all 2048 cells. -/
def State.displaySnapshot (s : State) : Display := s.disp

/-- Program counter. -/
def State.programCounter (s : State) : Word := s.pc

/-- Single-byte memory read, for `a` in 0 to 4095 (20_memory.md R61). -/
def State.memoryByte (s : State) (a : Addr12) : Byte := s.byteAt a.toNat

/-- Full register array. -/
def State.registers (s : State) : Vector Byte 16 := s.v

/-- Address register, all 16 bits (R22). -/
def State.addressRegister (s : State) : Word := s.i

/-- Delay timer. -/
def State.delayTimer (s : State) : Byte := s.dt

/-- Sound timer. -/
def State.soundTimer (s : State) : Byte := s.st

/-- Stack contents `STACK[0]` (oldest) to `STACK[SP-1]` (newest). -/
def State.stackContents (s : State) : List Word := s.stack.reverse

/-- `KEYS`, all 16 bits. R34's list does not name it; R186 says that the accessors expose every piece of
state (assumption 19). -/
def State.keyState (s : State) : Word := s.keys

/-- `isPaused()`. -/
def State.isPaused (s : State) : Bool := s.paused

/-- `CAUSE` as its 2-bit code. -/
def State.haltCode (s : State) : BitVec 2 := causeCode s.cause

end Sys2Proof.Machine
end

