-- ==== Sys2Proof/Safety.lean ====
section
/-! DEFINITION. The words claims are stated in: what a step leaves unchanged, the invariant of the machine,
faulty and ended states (60_exceptions.md R178, 70_reset_and_hazards.md R196), the sticky fault mark of
93_implementation_defined.md U8, and where the source itself settles an instruction (Part 1 there). -/

namespace Sys2Proof.Safety

open Sys2Proof.Machine

/-! ## Frames -/

/-- What a statement allows an instruction to change. -/
structure Touched where
  /-- The V registers that may change. -/
  regs : List Reg := []
  /-- `I` may change. -/
  i : Bool := false
  /-- `pc` may change. -/
  pc : Bool := false
  /-- The call stack may change. -/
  stack : Bool := false
  /-- `DT` may change. -/
  dt : Bool := false
  /-- `ST` may change. -/
  st : Bool := false
  /-- `DISP` may change. -/
  disp : Bool := false
  /-- `PAUSED` and `CAUSE` may change. -/
  halt : Bool := false
  /-- A random byte may be drawn. -/
  draws : Bool := false
  /-- The memory cells that may change. -/
  cells : List Nat := []

/-- From `s` to `t` nothing changes but what `f` allows: every other register, every other memory byte as
the model reads one byte, and every other piece of state keeps its value. `KEYS`, the configuration and
the events to come are changed by no instruction. -/
def Frame (f : Touched) (s t : State) : Prop :=
  (∀ r, r ∉ f.regs → t.getV r = s.getV r) ∧
  (f.i = false → t.i = s.i) ∧
  (f.pc = false → t.pc = s.pc) ∧
  (f.stack = false → t.stack = s.stack) ∧
  (f.dt = false → t.dt = s.dt) ∧
  (f.st = false → t.st = s.st) ∧
  (f.disp = false → t.disp = s.disp) ∧
  (f.halt = false → t.paused = s.paused ∧ t.cause = s.cause) ∧
  (f.draws = false → t.draws = s.draws) ∧
  (∀ a, a ∉ f.cells → t.byteAt a = s.byteAt a) ∧
  t.keys = s.keys ∧ t.cfg = s.cfg ∧ t.inputs = s.inputs

/-- The cells `(addr + k) mod 4096` for `k` in `0..count-1`: the effective addresses of a multi-byte access
(20_memory.md R51). -/
def cellsFrom (addr count : Nat) : List Nat := (List.range count).map fun k => effAddr (addr + k)

/-! ## The invariant -/

/-- What holds in every state of a run: memory is in canonical form; at most 16 return addresses are held,
each in 0x0002 to 0x0FFF (41_flow.md R100, R102); `pc` is at most 0x10FE (10_state.md R24); a halt cause is
recorded only while the machine is paused (R177, R33); and the configuration obeys R6. -/
def Invariant (s : State) : Prop :=
  Memory.wf s.cfg s.mem ∧
  s.stack.length ≤ Config.stackDepth ∧
  (∀ w ∈ s.stack, 0x0002 ≤ w.toNat ∧ w.toNat ≤ 0x0FFF) ∧
  s.pc.toNat ≤ 0x10FE ∧
  (s.cause ≠ .none → s.paused = true) ∧
  s.cfg.wf

/-- Two states that differ at most in the display buffer. -/
def SameButDisp (s t : State) : Prop := t = { s with disp := t.disp }

/-- Two states that differ at most in `PAUSED` and `CAUSE`. -/
def SameButRunControl (s t : State) : Prop := t = { s with paused := t.paused, cause := t.cause }

/-- Two states that differ at most in the four open parameters (00_scope.md R6): every cell of memory reads
the same in both, although the list of the cells that differ from the reset contents depends on the font. -/
def SameButParameters (s t : State) : Prop :=
  t = { s with cfg := t.cfg, mem := t.mem } ∧ ∀ a, a < Config.memSize → t.byteAt a = s.byteAt a

/-! ## Faulty and ended states -/

/-- A state with `CAUSE != NONE` is faulty, never a normal end of a run (R178, U8). -/
def faulty (s : State) : Bool := s.cause ≠ .none

/-- The recommended normal end of a run (R196): not paused, and the word at `pc` is `JUMP pc` with
`pc <= 0xFFD`. -/
def ended (s : State) : Bool :=
  !s.paused && decide (s.pc.toNat ≤ 0xFFD) && decide (s.fetchWord = 0x1000 ||| s.pc)

/-- A machine together with the fault mark that is sticky in the model although `Pause(0)` clears `CAUSE`
in the hardware (U8). -/
structure Watched where
  /-- The machine. -/
  machine : State
  /-- Some state of the run so far was faulty. -/
  marked : Bool
  deriving DecidableEq, Repr

/-- One step of a watched machine; a step that stops leaves it where it is and marks it. -/
def Watched.step (w : Watched) : Watched :=
  match Machine.step w.machine with
  | .next t => ⟨t, w.marked || faulty t⟩
  | .fault _ => ⟨w.machine, true⟩
  | .refused _ => ⟨w.machine, true⟩

/-- A watched run of `k` steps. -/
def Watched.run : Nat → Watched → Watched
  | 0, w => w
  | k + 1, w => Watched.run k w.step

/-! ## Where the source settles an instruction -/

/-- The source itself settles what `i` does at `s` to all state but `DISP`, by this model's reading of
93_implementation_defined.md Part 1 (U1, U4, U5, U6, U9, U10, U11, U12, U13) and of the decisions D14 and
D34 (assumption 14). The machine runs `i` everywhere, by the spec's rule; a claim that should not lean on
such a rule takes this as a premise. -/
def settledOutsideDisplay (i : Instr) (s : State) : Bool :=
  match i with
  | .cls x => x == 0
  | .ret x => x == 0 && decide (s.sp ≠ 0)
  | .skipEReg _ _ n | .skipNeReg _ _ n => n == 0
  | .call _ => decide (s.sp < Config.stackDepth)
  | .jumpV0 nnn => decide (nnn.toNat + (s.getV 0).toNat ≤ 0xFFF)
  | .subReg x y | .subnReg x y => x != vf && y != vf
  | .shr x _ | .shl x _ => x != vf
  | .drw _ _ n => decide (s.i.toNat + n.toNat ≤ 0x1000)
  | .skipKy x | .skipKn x => decide ((s.getV x).toNat ≤ 15)
  | .waitKey _ => decide (s.keys.toNat ≤ 0x00FF)
  | .addI _ => s.i == 0
  | .fontI x => decide ((s.getV x).toNat > 15)
  | .movBcd _ => decide (s.i.toNat + 2 ≤ 0xFFF)
  | .memStore x | .memLoad x =>
    decide ((s.getV x).toNat = x.toNat) && decide (s.i.toNat + x.toNat ≤ 0xFFF)
  | .jump _ | .skipEImm _ _ | .skipNeImm _ _ | .movImm _ _ | .addImm _ _ | .movReg _ _ | .orReg _ _
  | .andReg _ _ | .xorReg _ _ | .addReg _ _ | .movI _ | .rndmsk _ _ | .movFromDelay _ | .movDelay _
  | .movSound _ => true

/-- No cell of `DISP` that `i` leaves at `s` depends on the sprite bit order (U20): `i` is no `DRW`, or a
`DRW` of no row or of a sprite that starts off the screen, which draws nothing in either order. -/
def orderFree (i : Instr) (s : State) : Bool :=
  match i with
  | .drw x y n => n == 0 || decide (Config.dispCols ≤ (s.getV x).toNat) ||
      decide (Config.dispRows ≤ (s.getV y).toNat)
  | .cls _ | .ret _ | .jump _ | .call _ | .skipEImm _ _ | .skipNeImm _ _ | .skipEReg _ _ _ | .movImm _ _
  | .addImm _ _ | .movReg _ _ | .orReg _ _ | .andReg _ _ | .xorReg _ _ | .addReg _ _ | .subReg _ _
  | .shr _ _ | .subnReg _ _ | .shl _ _ | .skipNeReg _ _ _ | .movI _ | .jumpV0 _ | .rndmsk _ _ | .skipKy _
  | .skipKn _ | .movFromDelay _ | .waitKey _ | .movDelay _ | .movSound _ | .addI _ | .fontI _ | .movBcd _
  | .memStore _ | .memLoad _ => true

/-- The source itself settles all that `i` does at `s`, the display included (assumption 14). -/
def settled (i : Instr) (s : State) : Bool := settledOutsideDisplay i s && orderFree i s

/-- What `i` does at `s` depends on an open parameter: `ADD I,Vx` on `ADD_I_DOUBLES` unless `I = 0` (R131),
`FONT I,Vx` on `FONT_BASE` for a value up to 15 (R132), the bulk moves on `BULK_BY_VALUE` unless `V[x] = x`
(R134, R135). `FONT_DATA` is written at reset alone (R58). -/
def parametersMatter (i : Instr) (s : State) : Bool :=
  match i with
  | .addI _ => s.i != 0
  | .fontI x => decide ((s.getV x).toNat ≤ 15)
  | .memStore x | .memLoad x => decide ((s.getV x).toNat ≠ x.toNat)
  | .cls _ | .ret _ | .jump _ | .call _ | .skipEImm _ _ | .skipNeImm _ _ | .skipEReg _ _ _ | .movImm _ _
  | .addImm _ _ | .movReg _ _ | .orReg _ _ | .andReg _ _ | .xorReg _ _ | .addReg _ _ | .subReg _ _
  | .shr _ _ | .subnReg _ _ | .shl _ _ | .skipNeReg _ _ _ | .movI _ | .jumpV0 _ | .rndmsk _ _ | .drw _ _ _
  | .skipKy _ | .skipKn _ | .movFromDelay _ | .waitKey _ | .movDelay _ | .movSound _ | .movBcd _ => false

end Sys2Proof.Safety
end

