-- ==== Sys2Proof/Certificates/Slice0/Obligations.lean ====
section
/-! DEFINITION. The statements for the provers, from the numbered rules of spec/. Every statement about an
instruction says that it completes: `exec` answers a next state, at every state and operand the statement
names. `exec` applies an instruction when `pc` already holds `a + 2` (40_cycle.md R93). -/

open Sys2Proof Sys2Proof.Machine Sys2Proof.Safety

/-! ## The decoder -/

/-- Words written out from R75's patterns decode to the instructions they stand for, one or more of each
family, and three words of no row are UNKNOWN (95_test_vectors.md 2.1). Of these words the opcode numbers
R75 marks gk are general knowledge (decision D9, assumption 12), and 0x03E0 rests on decision D7. -/
def Obligations.SpecWordsDecode : Prop :=
  decodeKind 0x00EE = .instr (.ret 0x0) ∧ decodeKind 0x1234 = .instr (.jump 0x234) ∧
  decodeKind 0x2ABC = .instr (.call 0xABC) ∧ decodeKind 0x3A3C = .instr (.skipEImm 0xA 0x3C) ∧
  decodeKind 0x6A3C = .instr (.movImm 0xA 0x3C) ∧ decodeKind 0x8AB6 = .instr (.shr 0xA 0xB) ∧
  decodeKind 0x8AB7 = .instr (.subnReg 0xA 0xB) ∧ decodeKind 0xF033 = .instr (.movBcd 0x0) ∧
  decodeKind 0xFF55 = .instr (.memStore 0xF) ∧ decodeKind 0x03E0 = .instr (.cls 0x3) ∧
  decodeKind 0xD123 = .instr (.drw 0x1 0x2 0x3) ∧ decodeKind 0xE1A1 = .instr (.skipKn 0x1) ∧
  decodeKind 0xFA15 = .instr (.movDelay 0xA) ∧
  decodeKind 0x0000 = .unknown ∧ decodeKind 0x8AB8 = .unknown ∧ decodeKind 0xF066 = .unknown

/-- R71: the six fields of every word, as unsigned integers, and the overlaps `kk = y ++ n`,
`nnn = x ++ y ++ n`. -/
def Obligations.FieldsOfEveryWord : Prop :=
  ∀ (w : Word) (a : Option Word),
    (decode w a).op.toNat = w.toNat / 2 ^ 12 ∧
    (decode w a).x.toNat = w.toNat / 2 ^ 8 % 2 ^ 4 ∧
    (decode w a).y.toNat = w.toNat / 2 ^ 4 % 2 ^ 4 ∧
    (decode w a).n.toNat = w.toNat % 2 ^ 4 ∧
    (decode w a).kk.toNat = w.toNat % 2 ^ 8 ∧
    (decode w a).nnn.toNat = w.toNat % 2 ^ 12 ∧
    (decode w a).kk = (decode w a).y ++ (decode w a).n ∧
    (decode w a).nnn = (decode w a).x ++ (decode w a).y ++ (decode w a).n

/-- R80: re-assembling the nibbles of a decoded word gives the word, UNKNOWN ones included; decoding the
encoding of any instruction, canonical or not, gives it back; and encoding what a word decodes to gives
the word, so no bit of an encoding is dropped. `decodeTableWord` agrees. R80 marks the round trip of
instructions as derived, and the opcode numbers R75 marks gk are general knowledge (decision D9, assumption
12). -/
def Obligations.DecodeEncodeRoundTrip : Prop :=
  (∀ (w : Word) (a : Option Word), (decode w a).reassemble = w) ∧
  (∀ i : Instr, decodeKind i.encode = .instr i) ∧
  (∀ (w : Word) (i : Instr), decodeKind w = .instr i → i.encode = w) ∧
  (∀ i : Instr, decodeTableWord 16 i.encode.toNat = some i) ∧
  (∀ i : Instr, i.wellFormed = true → i.canonical = i)

/-- R75: the table has 34 rows with pairwise disjoint masks and matches, and a word is the instruction of a
row iff `w & mask = match`. Of the table the opcode numbers R75 marks gk are general knowledge (decision D9,
assumption 12), and which nibbles are tested is decision D7. -/
def Obligations.WordIsInstructionIffItsRowMatches : Prop :=
  opcodeTable.length = 34 ∧
  (∀ r ∈ opcodeTable, ∀ w : Word,
    (∃ i, decodeKind w = .instr i ∧ i.row = r) ↔ w &&& r.mask = r.pattern) ∧
  opcodeTable.Pairwise (fun p q => ∀ w : Word, ¬(w &&& p.mask = p.pattern ∧ w &&& q.mask = q.pattern))

/-- R77: the unknown words are exactly those of four `op` values whose secondary key is not listed. The
counts R77 gives are not stated here. That there is no 35th pattern is decision D8; the opcode numbers R75
marks gk are general knowledge (decision D9, assumption 12). -/
def Obligations.UnknownWordsExactly : Prop :=
  ∀ w : Word, decodeKind w = .unknown ↔
    (opField w = 0x0 ∧ kkField w ∉ [0xE0, 0xEE]) ∨
    (opField w = 0x8 ∧ nField w ∈ [0x8, 0x9, 0xA, 0xB, 0xC, 0xD, 0xF]) ∨
    (opField w = 0xE ∧ kkField w ∉ [0x9E, 0xA1]) ∨
    (opField w = 0xF ∧ kkField w ∉ [0x07, 0x0A, 0x15, 0x18, 0x1E, 0x29, 0x33, 0x55, 0x65])

/-- R76: ignored nibbles do not change what an instruction does, and the canonical spelling is
well-formed. That these nibbles are ignored is decision D7. -/
def Obligations.IgnoredNibblesHaveNoEffect : Prop :=
  (∀ (i : Instr) (s : State), exec i s = exec i.canonical s) ∧
  (∀ i : Instr, i.canonical.wellFormed = true) ∧
  decodeKind 0x07E0 = .instr (.cls 0x7) ∧ decodeKind 0x07EE = .instr (.ret 0x7) ∧
  decodeKind 0x5AB7 = .instr (.skipEReg 0xA 0xB 0x7) ∧ decodeKind 0x9AB5 = .instr (.skipNeReg 0xA 0xB 0x5)

/-- R81, R82, scenario D of 95_test_vectors.md: the decoder's output for some words. The details of the
texts are decisions D31 and D32. -/
def Obligations.DecoderOutputText : Prop :=
  decode 0x1234 none = ⟨0x1234, 0x1, 0x2, 0x3, 0x4, 0x34, 0x234, .instr (.jump 0x234), "JUMP", "0x234", none⟩ ∧
  ((decode 0x6A3C none).mnemonic = "MOV" ∧ (decode 0x6A3C none).operands = "V10,0x3C") ∧
  ((decode 0x7A01 none).mnemonic = "ADD" ∧ (decode 0x7A01 none).operands = "V10,0x01") ∧
  ((decode 0x0000 none).mnemonic = "unknown" ∧ (decode 0x0000 none).operands = "")

/-! ## The cycle and the step -/

/-- A step applies the event listed next, whichever it is, with that event dropped (R33; that the events to
come are a list of the state is the model's choice, assumption 3). When the word at `pc` decodes to an
instruction, a step that runs a cycle is `exec` of it on the state with `pc` advanced by 2: with no event
listed and the machine running, with `Run` listed next, and with `SingleStep` listed next while paused (R90,
R98; that no listed event means `Run` is the model's choice, assumption 3). -/
def Obligations.StepRunsTheDecodedInstruction : Prop :=
  (∀ (s : State) (e : Event) (es : List Event), s.inputs = e :: es →
    step s = applyEvent e { s with inputs := es }) ∧
  ∀ (s : State) (i : Instr), s.pc.toNat ≤ 0xFFD → decodeKind s.fetchWord = .instr i →
    (s.inputs = [] → s.paused = false → step s = exec i { s with pc := s.pc + 2 }) ∧
    (∀ es, s.inputs = .run :: es → s.paused = false →
      step s = exec i { s with pc := s.pc + 2, inputs := es }) ∧
    (∀ es, s.inputs = .singleStep :: es → s.paused = true →
      step s = exec i { s with pc := s.pc + 2, inputs := es })

/-- A word placed by `withFetchWord` is the one the very next step applies, at every state: it stands at `pc`,
or at 0x0200 where `pc` is above 0xFFD, its high byte at the lower address, and all else is as it was: every
V register, `I`, the stack, the timers, the display, the keys, the run control, every other byte of memory
and the model's own fields. The placing is the model's own operation (assumption 9). -/
def Obligations.PlacedInstructionRunsNext : Prop :=
  ∀ (s : State) (i : Instr), ∃ (u : State) (a : Nat),
    step (s.withFetchWord 16 i.encode.toNat) = exec i u ∧
    (s.pc.toNat ≤ 0xFFD → a = s.pc.toNat ∧ u.pc = s.pc + 2) ∧
    (s.pc.toNat > 0xFFD → a = 0x0200 ∧ u.pc = 0x0202) ∧
    (u.byteAt a).toNat = i.encode.toNat / 256 ∧ (u.byteAt (a + 1)).toNat = i.encode.toNat % 256 ∧
    (∀ b, b ≠ a → b ≠ a + 1 → u.byteAt b = s.byteAt b) ∧
    (∀ r, u.getV r = s.getV r) ∧ u.i = s.i ∧ u.stack = s.stack ∧
    u.dt = s.dt ∧ u.st = s.st ∧ u.disp = s.disp ∧ u.keys = s.keys ∧ u.paused = s.paused ∧
    u.cause = s.cause ∧ u.cfg = s.cfg ∧ u.draws = s.draws ∧ u.inputs = s.inputs

/-- R54: `Fetch(a)` is `MEM[a] ++ MEM[a+1]`, the byte at the lower address high. The byte order is decision
D30. -/
def Obligations.FetchIsBigEndian : Prop :=
  ∀ s : State, s.pc.toNat ≤ 0xFFE →
    s.fetchWord.toNat = (s.byteAt s.pc.toNat).toNat * 256 + (s.byteAt (s.pc.toNat + 1)).toNat

/-- R96: an unknown word only advances `pc`, where the guards let it be applied. -/
def Obligations.UnknownWordOnlyAdvances : Prop :=
  ∀ s : State, s.pc.toNat ≤ 0xFFD → decodeKind s.fetchWord = .unknown →
    cycle s = .next { s with pc := s.pc + 2 }

/-- R91: a cycle that starts with `pc > 0xFFE` halts with `PC_OOB` and does nothing else; repeating it
changes nothing. The guard is decision D11. -/
def Obligations.FetchGuardHalts : Prop :=
  ∀ s : State, s.pc.toNat > 0xFFE → ∃ t, cycle s = .next t ∧
    t = { s with paused := true, cause := .pcOob } ∧ cycle t = .next t

/-- R97: every cycle completes, in every state; and the draw matters only when the instruction is
`RNDMSK`. The random byte as a free draw is decision D20 (assumption 2). -/
def Obligations.EveryCycleCompletes : Prop :=
  (∀ s : State, ∃ t, cycle s = .next t) ∧
  (∀ (s t : State) (d : Nat), (∀ x kk, decodeKind s.fetchWord ≠ .instr (.rndmsk x kk)) →
    cycle s = .next t → t.draws = s.draws ∧ cycle { s with draws := d } = .next { t with draws := d })

/-- R98, R30: neither the cycle nor any instruction reads `PAUSED` or `CAUSE`: from two states that differ
only there, the cycle leads to two states that differ only there. That the cycle does not read PAUSED is
decision D23. -/
def Obligations.CycleDoesNotReadRunControl : Prop :=
  ∀ s s' t : State, SameButRunControl s s' → cycle s = .next t →
    ∃ t', cycle s' = .next t' ∧ SameButRunControl t t'

/-- R23: `pc` after a cycle, `a` the address fetched from, for every instruction and UNKNOWN. The halts of
CALL, RET and 0xFFE rest on decisions D12, D13 and D14, the unmasked sum on D34, a missing key on D18. -/
def Obligations.PcAfterACycle : Prop :=
  ∀ s t : State, cycle s = .next t →
    (s.pc.toNat = 0xFFE → t.pc.toNat = 0x1000) ∧
    (s.pc.toNat ≤ 0xFFD → decodeKind s.fetchWord = .unknown → t.pc.toNat = s.pc.toNat + 2) ∧
    (∀ i, s.pc.toNat ≤ 0xFFD → decodeKind s.fetchWord = .instr i →
      t.pc.toNat =
        match i with
        | .jump nnn => nnn.toNat
        | .call nnn => if s.stack.length < 16 then nnn.toNat else s.pc.toNat + 2
        | .ret _ => (s.stack.head?.getD (s.pc + 2)).toNat
        | .jumpV0 nnn => nnn.toNat + (s.getV 0).toNat
        | .skipEImm x kk => if s.getV x = kk then s.pc.toNat + 4 else s.pc.toNat + 2
        | .skipNeImm x kk => if s.getV x = kk then s.pc.toNat + 2 else s.pc.toNat + 4
        | .skipEReg x y _ => if s.getV x = s.getV y then s.pc.toNat + 4 else s.pc.toNat + 2
        | .skipNeReg x y _ => if s.getV x = s.getV y then s.pc.toNat + 2 else s.pc.toNat + 4
        | .skipKy x =>
          if s.keys.getLsbD (s.getV x).toNat = true then s.pc.toNat + 4 else s.pc.toNat + 2
        | .skipKn x =>
          if s.keys.getLsbD (s.getV x).toNat = true then s.pc.toNat + 2 else s.pc.toNat + 4
        | .waitKey _ => if s.keys = 0 then s.pc.toNat else s.pc.toNat + 2
        | _ => s.pc.toNat + 2)

/-- R170, R174, R177: a cycle halts in exactly these ways, in this order of tests, and changes only what the
table of R177 says; every other cycle leaves `PAUSED` and `CAUSE` alone. The conditions and codes rest on
decisions D11, D12, D13, D14 and D15. -/
def Obligations.HaltsExactly : Prop :=
  ∀ s : State,
    (s.pc.toNat > 0xFFE → cycle s = .next { s with paused := true, cause := .pcOob }) ∧
    (s.pc.toNat = 0xFFE → cycle s = .next { s with pc := 0x1000, paused := true, cause := .pcOob }) ∧
    (∀ x, s.pc.toNat ≤ 0xFFD → decodeKind s.fetchWord = .instr (.ret x) → s.stack = [] →
      cycle s = .next { s with pc := s.pc + 2, paused := true, cause := .stackUnderflow }) ∧
    (∀ nnn, s.pc.toNat ≤ 0xFFD → decodeKind s.fetchWord = .instr (.call nnn) → s.stack.length = 16 →
      cycle s = .next { s with pc := s.pc + 2, paused := true, cause := .stackOverflow }) ∧
    (s.pc.toNat ≤ 0xFFD → (∀ x, ¬(decodeKind s.fetchWord = .instr (.ret x) ∧ s.stack = [])) →
      (∀ nnn, ¬(decodeKind s.fetchWord = .instr (.call nnn) ∧ 16 ≤ s.stack.length)) →
      ∃ t, cycle s = .next t ∧ t.paused = s.paused ∧ t.cause = s.cause)

/-! ## Memory -/

/-- R52, R53, R51: a read after a write gives the byte written at the same effective address and the old
byte everywhere else; both reduce every address modulo 4096; a read changes nothing, and a write changes
no other state. Reduction modulo 4096 is decision D10, writing below 0x200 decision D33. -/
def Obligations.MemReadAfterMemWrite : Prop :=
  ∀ (s : State) (a p : Nat) (b : Byte),
    (s.memWrite a b).memRead p = (if a % 4096 = p % 4096 then b else s.memRead p) ∧
    s.memRead p = s.byteAt (p % 4096) ∧
    Frame { cells := [a % 4096] } s (s.memWrite a b)

/-- R65: bytes stored by `MemWrite` over the word at `pc` are what the next fetch sees. R65 marks this as
derived; the byte order is decision D30. -/
def Obligations.StoresAreFetched : Prop :=
  ∀ (s : State) (hi lo : Byte), s.pc.toNat ≤ 0xFFE →
    ((s.memWrite s.pc.toNat hi).memWrite (s.pc.toNat + 1) lo).fetchWord = hi ++ lo

/-- R60: a ROM load copies its bytes to ascending addresses from `base`, drops those beyond 0xFFF, and
changes no other state; `pc` stays. Dropping the bytes past 0xFFF is decision D25. -/
def Obligations.RomLoadCopiesBytes : Prop :=
  ∀ (s : State) (base : Nat) (bytes : List Byte), ∃ t, applyEvent (.romLoad base bytes) s = .next t ∧
    (∀ a, a < 4096 → t.byteAt a =
      if base ≤ a ∧ a < base + bytes.length then bytes.getD (a - base) 0 else s.byteAt a) ∧
    t = { s with mem := t.mem }

/-! ## The invariant, reset and the environment's events -/

/-- Every step keeps the invariant: canonical memory, at most 16 return addresses in 0x0002 to 0x0FFF, `pc`
at most 0x10FE, a cause only while paused. The canonical form is the model's (assumption 7). -/
def Obligations.StepKeepsInv : Prop :=
  ∀ s t : State, Invariant s → step s = .next t → Invariant t

/-- The reset state, for the default and for every legal configuration, meets the invariant. The
configuration as a field of State is the model's (assumption 1). -/
def Obligations.ResetMeetsInv : Prop :=
  Invariant State.reset ∧ ∀ c : Config.Cfg, c.wf → Invariant (State.resetWith c)

/-- R190, R36: what the `Reset` event leaves, from every state: every register, the timers, the display, the
keys and the run control cleared, `pc = 0x0200`, the stack empty, and memory zero but for the font table.
The configuration, the count of draws and the events to come, the model's own fields, stay. The values rest
on decisions D2, D15 and D22; what stays is the model's own (assumption 11). -/
def Obligations.ResetEventLeaves : Prop :=
  ∀ s : State, ∃ t, applyEvent .reset s = .next t ∧
    (∀ r, t.getV r = 0x00) ∧ t.i = 0x0000 ∧ t.pc = 0x0200 ∧ t.stack = [] ∧ t.dt = 0x00 ∧ t.st = 0x00 ∧
    (∀ row col, dispCell t.disp row col = false) ∧ t.keys = 0x0000 ∧ t.paused = false ∧ t.cause = .none ∧
    (∀ a, a < 4096 → t.byteAt a =
      if h : s.cfg.fontBase.toNat ≤ a ∧ a < s.cfg.fontBase.toNat + 80
      then s.cfg.fontData[a - s.cfg.fontBase.toNat]'(by omega) else 0x00) ∧
    t.cfg = s.cfg ∧ t.draws = s.draws ∧ t.inputs = s.inputs

/-- R36 at the default configuration of R6 (D3, D4): the machine right after reset, with glyph 0 and glyph F
where V-RST-2 and V-RST-3 read them, and its first cycle fetching from 0x0200 (R191). The values rest on
decisions D2, D3, D4, D15 and D22; that a step with no event listed is Run is assumption 3. -/
def Obligations.ResetState : Prop :=
  State.reset.pc = 0x0200 ∧ State.reset.i = 0x0000 ∧ State.reset.stack = [] ∧ State.reset.paused = false ∧
  State.reset.cause = .none ∧ State.reset.keys = 0x0000 ∧ (∀ r, State.reset.getV r = 0x00) ∧
  (List.range 5).map State.reset.byteAt = [0xF0, 0x90, 0x90, 0x90, 0xF0] ∧
  (List.range 6).map (fun k => State.reset.byteAt (0x04B + k)) = [0xF0, 0x80, 0xF0, 0x80, 0x80, 0x00] ∧
  State.reset.mem = [] ∧ step State.reset = .next { State.reset with pc := 0x0202 }

/-- R156: each timer goes down by 1 while it is above 0 and never wraps; nothing else changes. When ticks
come is decision D21 and is not stated here. -/
def Obligations.TimerTickCountsDown : Prop :=
  ∀ s : State, ∃ t, applyEvent .timerTick s = .next t ∧ t.dt.toNat = s.dt.toNat - 1 ∧
    t.st.toNat = s.st.toNat - 1 ∧ Frame { dt := true, st := true } s t

/-- R157 and R33's row of KeySet: `KEYS <- k`, all 16 bits, and nothing else. The event interface is
decision D1. -/
def Obligations.KeySetReplacesKeys : Prop :=
  ∀ (s : State) (k : Word), applyEvent (.keySet k) s = .next { s with keys := k }

/-- R33's row of Pause and R179: `PAUSED <- b`, `CAUSE` cleared by a resume alone, and nothing restored. The
resume is decision D23. -/
def Obligations.PauseAndResume : Prop :=
  ∀ s : State, applyEvent (.pause true) s = .next { s with paused := true } ∧
    applyEvent (.pause false) s = .next { s with paused := false, cause := .none }

/-- R33, R29: `Run` runs a cycle of a running machine and `SingleStep` one of a paused machine; the event that
is not enabled stops the model by name (assumption 5); a paused machine with no event stays as it is
(assumption 3). The gating by PAUSED is decision D23. -/
def Obligations.RunAndSingleStepByPaused : Prop :=
  ∀ s : State,
    (s.paused = false → applyEvent .run s = cycle s ∧
      applyEvent .singleStep s = .fault .eventNotEnabled) ∧
    (s.paused = true → applyEvent .singleStep s = cycle s ∧
      applyEvent .run s = .fault .eventNotEnabled) ∧
    (s.paused = true → s.inputs = [] → step s = .next s)

/-- R98: a `SingleStep` leaves `PAUSED = 1`, and `CAUSE` changes only if the cycle halts. The single step of
a paused machine is decision D23. -/
def Obligations.SingleStepStaysPaused : Prop :=
  ∀ s t : State, s.paused = true → applyEvent .singleStep s = .next t →
    t.paused = true ∧ (t.cause = s.cause ∨ t.cause ≠ .none)

/-- R179: once `pc` is past 0xFFE, no event other than `Reset` changes it, so no run without a `Reset` leaves
that state. The guard is decision D11, the rest decision D23. -/
def Obligations.OnlyResetMovesAnOutOfRangePc : Prop :=
  ∀ s t : State, s.pc.toNat > 0xFFE → s.inputs.head? ≠ some .reset → step s = .next t → t.pc = s.pc

/-- R196: at the end of a run a step of the driver's default leaves the whole state unchanged. The end of a
run is decision D29; that no listed event means Run is assumption 3. -/
def Obligations.EndedRunStays : Prop :=
  ∀ s : State, ended s = true → s.inputs = [] → step s = .next s

/-! ## What instructions as a whole do not do -/

/-- R22, R25, R26, R27, R28: which instructions write `I`, the stack, the timers and the display; none writes
`KEYS`; only the three store writes of `MOV.BCD` and those of `MOV.MEM I,Vx` change memory (R50). -/
def Obligations.OnlyNamedInstructionsWrite : Prop :=
  ∀ (i : Instr) (s t : State), exec i s = .next t →
    (t.i ≠ s.i → ∃ nnn x, i = .movI nnn ∨ i = .addI x ∨ i = .fontI x) ∧
    (t.stack ≠ s.stack → ∃ nnn x, i = .call nnn ∨ i = .ret x) ∧
    (t.dt ≠ s.dt → ∃ x, i = .movDelay x) ∧
    (t.st ≠ s.st → ∃ x, i = .movSound x) ∧
    (t.disp ≠ s.disp → ∃ x y n, i = .cls x ∨ i = .drw x y n) ∧
    ((∃ a, t.byteAt a ≠ s.byteAt a) → ∃ x, i = .movBcd x ∨ i = .memStore x) ∧
    t.keys = s.keys ∧ t.cfg = s.cfg ∧ t.inputs = s.inputs

/-- R21: VF changes only as a named destination, as the last register of a bulk load with the bound 15 (R135),
or as the flag of one of five instructions; and those five leave 0 or 1 in VF, whatever it held, where it is
not their destination. The order of the two writes of a flag-writing instruction is part of decision D16. -/
def Obligations.FlagChangesOnlyByNamedWriters : Prop :=
  (∀ (i : Instr) (s t : State), exec i s = .next t → t.getV 15 ≠ s.getV 15 →
    (∃ kk, i = .movImm 15 kk ∨ i = .addImm 15 kk ∨ i = .rndmsk 15 kk) ∨
    (∃ y, i = .movReg 15 y ∨ i = .orReg 15 y ∨ i = .andReg 15 y ∨ i = .xorReg 15 y) ∨
    (i = .movFromDelay 15 ∨ i = .waitKey 15) ∨
    (∃ x, i = .memLoad x ∧ 15 = (if s.cfg.bulkByValue then (s.getV x).toNat else x.toNat)) ∨
    (∃ x y, i = .addReg x y ∨ i = .subReg x y ∨ i = .subnReg x y ∨ i = .shr x y ∨ i = .shl x y)) ∧
  (∀ (i : Instr) (s : State) (x y : Reg), x ≠ 15 →
    (i = .addReg x y ∨ i = .subReg x y ∨ i = .subnReg x y ∨ i = .shr x y ∨ i = .shl x y) →
    ∃ t, exec i s = .next t ∧ (t.getV 15 = 0 ∨ t.getV 15 = 1))

/-- R143: no register, flag, memory byte or any other state ever depends on the display: from two states that
differ only in `DISP`, a step leads to two states that differ only in `DISP`. R143 is marked as derived. -/
def Obligations.DisplayIsNeverRead : Prop :=
  ∀ s s' t : State, SameButDisp s s' → step s = .next t → ∃ t', step s' = .next t' ∧ SameButDisp t t'

/-- R6, R131, R132, R134, R135: from two states that differ only in the four open parameters, an instruction
that depends on none of them leads to two states that differ only there; the two switches `ADD_I_DOUBLES`
and `BULK_BY_VALUE` alone leave every other field, the list of memory cells too, the same; and where the
model's word `settledOutsideDisplay` (so also `settled`) holds, no parameter matters. The open parameters
are decisions D3, D4, D5 and D6; `settled` and `parametersMatter` are the model's words (assumption 14). -/
def Obligations.SettledInstructionsIgnoreOpenParameters : Prop :=
  (∀ (i : Instr) (s s' : State), parametersMatter i s = false → SameButParameters s s' →
    ∃ t t', exec i s = .next t ∧ exec i s' = .next t' ∧ SameButParameters t t' ∧
      t.cfg = s.cfg ∧ t'.cfg = s'.cfg) ∧
  (∀ (i : Instr) (s : State) (d v : Bool), parametersMatter i s = false →
    ∃ t, exec i s = .next t ∧
      exec i { s with cfg := { s.cfg with addIDoubles := d, bulkByValue := v } } =
        .next { t with cfg := { s.cfg with addIDoubles := d, bulkByValue := v } }) ∧
  (∀ (i : Instr) (s : State), settledOutsideDisplay i s = true → parametersMatter i s = false) ∧
  (∀ (i : Instr) (s : State), settled i s = true → parametersMatter i s = false)

/-! ## Control transfer -/

/-- R100. `RET`: pops the newest entry into `pc`; on an empty stack halts with `STACK_UNDERFLOW` and keeps the
advanced `pc`. The state after the halt is decision D14, the ignored nibble decision D7. -/
def Obligations.RetPops : Prop :=
  (∀ w : Word, w &&& 0xF0FF = 0x00EE → decodeKind w = .instr (.ret (xField w))) ∧
  (∀ (s : State) (x : Nibble) (w : Word) (rest : List Word), s.stack = w :: rest →
    ∃ t, exec (.ret x) s = .next t ∧ t.pc = w ∧ t.stack = rest ∧ Frame { pc := true, stack := true } s t) ∧
  (∀ (s : State) (x : Nibble), s.stack = [] →
    ∃ t, exec (.ret x) s = .next t ∧ t.paused = true ∧ t.cause = .stackUnderflow ∧ t.stack = [] ∧
      Frame { halt := true } s t)

/-- R102. `CALL nnn`: pushes the advanced `pc` and jumps; with 16 entries held halts with `STACK_OVERFLOW`,
pushes nothing and keeps the advanced `pc`. The halt is decision D13, the opcode number decision D9. -/
def Obligations.CallPushes : Prop :=
  (∀ w : Word, w &&& 0xF000 = 0x2000 → decodeKind w = .instr (.call (nnnField w))) ∧
  (∀ (s : State) (nnn : Addr12), s.stack.length < 16 →
    ∃ t, exec (.call nnn) s = .next t ∧ t.pc.toNat = nnn.toNat ∧ t.stack = s.pc :: s.stack ∧
      Frame { pc := true, stack := true } s t) ∧
  (∀ (s : State) (nnn : Addr12), s.stack.length = 16 →
    ∃ t, exec (.call nnn) s = .next t ∧ t.paused = true ∧ t.cause = .stackOverflow ∧
      Frame { halt := true } s t)

/-- R100: a `RET` that balances a `CALL` returns to the instruction after that `CALL`, with the stack as it
was. -/
def Obligations.RetBalancesCall : Prop :=
  ∀ (s : State) (nnn : Addr12) (x : Nibble) (a : Word), s.stack.length < 16 →
    ∃ t u, exec (.call nnn) s = .next t ∧ exec (.ret x) { t with pc := a } = .next u ∧ u = s

/-- R101. `JUMP nnn`: the absolute target, the stack untouched. -/
def Obligations.JumpAbsolute : Prop :=
  (∀ w : Word, w &&& 0xF000 = 0x1000 → decodeKind w = .instr (.jump (nnnField w))) ∧
  (∀ (s : State) (nnn : Addr12),
    ∃ t, exec (.jump nnn) s = .next t ∧ t.pc.toNat = nnn.toNat ∧ Frame { pc := true } s t)

/-- R107. `JUMP V0,nnn`: the sum of the address and `V[0]`, unmasked. That the sum is not masked is decision
D34, the opcode number decision D9. -/
def Obligations.JumpPlusV0 : Prop :=
  (∀ w : Word, w &&& 0xF000 = 0xB000 → decodeKind w = .instr (.jumpV0 (nnnField w))) ∧
  (∀ (s : State) (nnn : Addr12),
    ∃ t, exec (.jumpV0 nnn) s = .next t ∧ t.pc.toNat = nnn.toNat + (s.getV 0).toNat ∧
      Frame { pc := true } s t)

/-- R103, R104, R105, R106. The register skips: `pc <- pc + 2` iff the condition holds, nothing else. That n
is ignored is decision D7; the opcode numbers R75 marks gk are general knowledge (decision D9, assumption
12). -/
def Obligations.RegisterSkips : Prop :=
  (∀ w : Word, w &&& 0xF000 = 0x3000 → decodeKind w = .instr (.skipEImm (xField w) (kkField w))) ∧
  (∀ w : Word, w &&& 0xF000 = 0x4000 → decodeKind w = .instr (.skipNeImm (xField w) (kkField w))) ∧
  (∀ w : Word, w &&& 0xF000 = 0x5000 →
    decodeKind w = .instr (.skipEReg (xField w) (yField w) (nField w))) ∧
  (∀ w : Word, w &&& 0xF000 = 0x9000 →
    decodeKind w = .instr (.skipNeReg (xField w) (yField w) (nField w))) ∧
  ∀ (s : State) (x y : Reg) (kk : Byte) (n : Nibble),
    (∃ t, exec (.skipEImm x kk) s = .next t ∧
      t.pc = (if s.getV x = kk then s.pc + 2 else s.pc) ∧ Frame { pc := true } s t) ∧
    (∃ t, exec (.skipNeImm x kk) s = .next t ∧
      t.pc = (if s.getV x = kk then s.pc else s.pc + 2) ∧ Frame { pc := true } s t) ∧
    (∃ t, exec (.skipEReg x y n) s = .next t ∧
      t.pc = (if s.getV x = s.getV y then s.pc + 2 else s.pc) ∧ Frame { pc := true } s t) ∧
    (∃ t, exec (.skipNeReg x y n) s = .next t ∧
      t.pc = (if s.getV x = s.getV y then s.pc else s.pc + 2) ∧ Frame { pc := true } s t)

/-! ## Register and ALU instructions -/

/-- R111. `MOV Vx,kk`: the immediate, no flag. -/
def Obligations.MovImmediate : Prop :=
  (∀ w : Word, w &&& 0xF000 = 0x6000 → decodeKind w = .instr (.movImm (xField w) (kkField w))) ∧
  ∀ (s : State) (x : Reg) (kk : Byte),
    ∃ t, exec (.movImm x kk) s = .next t ∧ t.getV x = kk ∧ Frame { regs := [x] } s t

/-- R112. `ADD Vx,kk`: the sum modulo 256, and VF is not written unless it is `Vx`. -/
def Obligations.AddImmediateWraps : Prop :=
  (∀ w : Word, w &&& 0xF000 = 0x7000 → decodeKind w = .instr (.addImm (xField w) (kkField w))) ∧
  ∀ (s : State) (x : Reg) (kk : Byte),
    ∃ t, exec (.addImm x kk) s = .next t ∧
      (t.getV x).toNat = ((s.getV x).toNat + kk.toNat) % 256 ∧ Frame { regs := [x] } s t

/-- R113, R114, R115, R116. `MOV`, `OR`, `AND`, `XOR` of two registers: bit by bit, VF left alone. That VF
is left alone is marked as derived in R114; the opcode numbers R75 marks gk are general knowledge (decision
D9, assumption 12). -/
def Obligations.MoveAndBitwise : Prop :=
  (∀ w : Word, w &&& 0xF00F = 0x8000 → decodeKind w = .instr (.movReg (xField w) (yField w))) ∧
  (∀ w : Word, w &&& 0xF00F = 0x8001 → decodeKind w = .instr (.orReg (xField w) (yField w))) ∧
  (∀ w : Word, w &&& 0xF00F = 0x8002 → decodeKind w = .instr (.andReg (xField w) (yField w))) ∧
  (∀ w : Word, w &&& 0xF00F = 0x8003 → decodeKind w = .instr (.xorReg (xField w) (yField w))) ∧
  ∀ (s : State) (x y : Reg),
    (∃ t, exec (.movReg x y) s = .next t ∧ t.getV x = s.getV y ∧ Frame { regs := [x] } s t) ∧
    (∃ t, exec (.orReg x y) s = .next t ∧
      (∀ k, (t.getV x).getLsbD k = ((s.getV x).getLsbD k || (s.getV y).getLsbD k)) ∧
      Frame { regs := [x] } s t) ∧
    (∃ t, exec (.andReg x y) s = .next t ∧
      (∀ k, (t.getV x).getLsbD k = ((s.getV x).getLsbD k && (s.getV y).getLsbD k)) ∧
      Frame { regs := [x] } s t) ∧
    (∃ t, exec (.xorReg x y) s = .next t ∧
      (∀ k, (t.getV x).getLsbD k = ((s.getV x).getLsbD k ^^ (s.getV y).getLsbD k)) ∧
      Frame { regs := [x] } s t)

/-- R117, R110. `ADD Vx,Vy`: the low byte of the sum, and VF the carry unless VF is the destination, which
holds the result because it is written last. The opcode number 8xy4 is no statement of the source (R75 marks
it gk, general knowledge: decision D9, assumption 12). -/
def Obligations.AddRegistersWithCarry : Prop :=
  (∀ w : Word, w &&& 0xF00F = 0x8004 → decodeKind w = .instr (.addReg (xField w) (yField w))) ∧
  ∀ (s : State) (x y : Reg),
    ∃ t, exec (.addReg x y) s = .next t ∧
      (t.getV x).toNat = ((s.getV x).toNat + (s.getV y).toNat) % 256 ∧
      (x ≠ 15 → t.getV 15 = if (s.getV x).toNat + (s.getV y).toNat > 255 then 1 else 0) ∧
      Frame { regs := [x, 15] } s t

/-- R118, R119. `SUB Vx,Vy` and `SUBN Vx,Vy`: the difference modulo 256, and VF 1 iff the minuend is strictly
greater, unless VF is the destination. Latching and write order are decision D16; the opcode numbers R75
marks gk are general knowledge (decision D9, assumption 12). -/
def Obligations.SubtractWithNoBorrow : Prop :=
  (∀ w : Word, w &&& 0xF00F = 0x8005 → decodeKind w = .instr (.subReg (xField w) (yField w))) ∧
  (∀ w : Word, w &&& 0xF00F = 0x8007 → decodeKind w = .instr (.subnReg (xField w) (yField w))) ∧
  ∀ (s : State) (x y : Reg),
    (∃ t, exec (.subReg x y) s = .next t ∧
      (t.getV x).toNat = (256 + (s.getV x).toNat - (s.getV y).toNat) % 256 ∧
      (x ≠ 15 → t.getV 15 = if (s.getV x).toNat > (s.getV y).toNat then 1 else 0) ∧
      Frame { regs := [x, 15] } s t) ∧
    (∃ t, exec (.subnReg x y) s = .next t ∧
      (t.getV x).toNat = (256 + (s.getV y).toNat - (s.getV x).toNat) % 256 ∧
      (x ≠ 15 → t.getV 15 = if (s.getV y).toNat > (s.getV x).toNat then 1 else 0) ∧
      Frame { regs := [x, 15] } s t)

/-- R120, R121. `SHR Vx` and `SHL Vx`: a shift of `V[x]` itself by one, whatever `y` is, and VF the bit
shifted out, unless VF is the destination. Latching and write order are decision D16; the opcode numbers R75
marks gk are general knowledge (decision D9, assumption 12). -/
def Obligations.Shifts : Prop :=
  (∀ w : Word, w &&& 0xF00F = 0x8006 → decodeKind w = .instr (.shr (xField w) (yField w))) ∧
  (∀ w : Word, w &&& 0xF00F = 0x800E → decodeKind w = .instr (.shl (xField w) (yField w))) ∧
  ∀ (s : State) (x : Reg) (y : Nibble),
    (∃ t, exec (.shr x y) s = .next t ∧ (t.getV x).toNat = (s.getV x).toNat / 2 ∧
      (x ≠ 15 → (t.getV 15).toNat = (s.getV x).toNat % 2) ∧ Frame { regs := [x, 15] } s t) ∧
    (∃ t, exec (.shl x y) s = .next t ∧ (t.getV x).toNat = (s.getV x).toNat * 2 % 256 ∧
      (x ≠ 15 → (t.getV 15).toNat = (s.getV x).toNat / 128) ∧ Frame { regs := [x, 15] } s t)

/-- R122. `RNDMSK Vx,kk`: the random byte and `kk`, so a bit where `kk` has 0 is 0; the draw is consumed. The
byte is the free value `Config.rnd` at the draw counter (assumption 2), whatever it is. The free draw is
decision D20, the opcode number decision D9. -/
def Obligations.RandomMasked : Prop :=
  (∀ w : Word, w &&& 0xF000 = 0xC000 → decodeKind w = .instr (.rndmsk (xField w) (kkField w))) ∧
  ∀ (s : State) (x : Reg) (kk : Byte),
    ∃ t, exec (.rndmsk x kk) s = .next t ∧ t.getV x = Config.rnd s.draws &&& kk ∧
      (∀ k, kk.getLsbD k = false → (t.getV x).getLsbD k = false) ∧
      t.draws = s.draws + 1 ∧ Frame { regs := [x], draws := true } s t

/-! ## Address register and memory -/

/-- R130. `MOV I,nnn`: the upper four bits become 0. The opcode number Annn is no statement of the source
(R75 marks it gk, general knowledge: decision D9, assumption 12). -/
def Obligations.MovAddress : Prop :=
  (∀ w : Word, w &&& 0xF000 = 0xA000 → decodeKind w = .instr (.movI (nnnField w))) ∧
  ∀ (s : State) (nnn : Addr12),
    ∃ t, exec (.movI nnn) s = .next t ∧ t.i.toNat = nnn.toNat ∧ Frame { i := true } s t

/-- R131. `ADD I,Vx`: modulo 65536, not masked to 12 bits, no flag; the observed doubling under
`CFG.ADD_I_DOUBLES`. The switch and the width are decisions D5 and D34, the opcode number decision D9. -/
def Obligations.AddAddress : Prop :=
  (∀ w : Word, w &&& 0xF0FF = 0xF01E → decodeKind w = .instr (.addI (xField w))) ∧
  ∀ (s : State) (x : Reg),
    ∃ t, exec (.addI x) s = .next t ∧
      t.i.toNat = (if s.cfg.addIDoubles then s.i.toNat + s.i.toNat + (s.getV x).toNat
        else s.i.toNat + (s.getV x).toNat) % 65536 ∧
      Frame { i := true } s t

/-- R132. `FONT I,Vx`: the glyph's address for a value up to 15, nothing at all for a greater one. The
opcode number Fx29 is no statement of the source (R75 marks it gk, general knowledge: decision D9,
assumption 12). -/
def Obligations.FontAddress : Prop :=
  (∀ w : Word, w &&& 0xF0FF = 0xF029 → decodeKind w = .instr (.fontI (xField w))) ∧
  ∀ (s : State) (x : Reg),
    ∃ t, exec (.fontI x) s = .next t ∧
      t.i.toNat = (if (s.getV x).toNat ≤ 15 then s.cfg.fontBase.toNat + 5 * (s.getV x).toNat
        else s.i.toNat) ∧
      Frame { i := true } s t

/-- R133. `MOV.BCD Vx`: hundreds, tens and ones at the effective addresses of `I`, `I + 1`, `I + 2`; every
other byte of memory, and `I`, unchanged. One byte per digit is decision D35, the wrap decision D10, the
opcode number decision D9. -/
def Obligations.BcdDigitsStored : Prop :=
  (∀ w : Word, w &&& 0xF0FF = 0xF033 → decodeKind w = .instr (.movBcd (xField w))) ∧
  ∀ (s : State) (x : Reg),
    ∃ t, exec (.movBcd x) s = .next t ∧
      (t.memRead s.i.toNat).toNat = (s.getV x).toNat / 100 ∧
      (t.memRead (s.i.toNat + 1)).toNat = (s.getV x).toNat / 10 % 10 ∧
      (t.memRead (s.i.toNat + 2)).toNat = (s.getV x).toNat % 10 ∧
      Frame { cells := cellsFrom s.i.toNat 3 } s t

/-- R134. `MOV.MEM I,Vx`: `V[0]` to `V[m]` at the effective addresses of `I` to `I + m`, `m` the value `V[x]`
or the field `x` by `CFG.BULK_BY_VALUE`; for `m >= 16` nothing is written. The bound is decision D6, the
wrap decision D10, the opcode number decision D9. -/
def Obligations.BulkStore : Prop :=
  (∀ w : Word, w &&& 0xF0FF = 0xF055 → decodeKind w = .instr (.memStore (xField w))) ∧
  ∀ (s : State) (x : Reg) (m : Nat), m = (if s.cfg.bulkByValue then (s.getV x).toNat else x.toNat) →
    ∃ t, exec (.memStore x) s = .next t ∧
      (m < 16 → (∀ r : Reg, r.toNat ≤ m → t.memRead (s.i.toNat + r.toNat) = s.getV r) ∧
        Frame { cells := cellsFrom s.i.toNat (m + 1) } s t) ∧
      (16 ≤ m → t = s)

/-- R135. `MOV.MEM Vx,I`: `V[0]` to `V[m]` from the effective addresses of `I` to `I + m`, the bound read once
before the first load; for `m >= 16` no register changes. The latched bound is decision D6, the wrap
decision D10, the opcode number decision D9. -/
def Obligations.BulkLoad : Prop :=
  (∀ w : Word, w &&& 0xF0FF = 0xF065 → decodeKind w = .instr (.memLoad (xField w))) ∧
  ∀ (s : State) (x : Reg) (m : Nat), m = (if s.cfg.bulkByValue then (s.getV x).toNat else x.toNat) →
    ∃ t, exec (.memLoad x) s = .next t ∧
      (m < 16 → (∀ r : Reg, r.toNat ≤ m → t.getV r = s.memRead (s.i.toNat + r.toNat)) ∧
        Frame { regs := (List.range (m + 1)).map (BitVec.ofNat 4) } s t) ∧
      (16 ≤ m → t = s)

/-- R136: the memory instructions read `I` and do not write it. R136 is marked as derived. -/
def Obligations.MemoryInstructionsKeepI : Prop :=
  ∀ (s : State) (x y : Reg) (n : Nibble),
    ∃ t₁ t₂ t₃ t₄, exec (.drw x y n) s = .next t₁ ∧ exec (.movBcd x) s = .next t₂ ∧
      exec (.memStore x) s = .next t₃ ∧ exec (.memLoad x) s = .next t₄ ∧
      t₁.i = s.i ∧ t₂.i = s.i ∧ t₃.i = s.i ∧ t₄.i = s.i

/-! ## Display -/

/-- R140. `CLS`: every cell off, nothing else. That every value of the ignored nibble decodes to CLS is
decision D7 (R74, R76, assumption 12). -/
def Obligations.ClearScreen : Prop :=
  (∀ w : Word, w &&& 0xF0FF = 0x00E0 → decodeKind w = .instr (.cls (xField w))) ∧
  ∀ (s : State) (x : Nibble),
    ∃ t, exec (.cls x) s = .next t ∧ (∀ row col, dispCell t.disp row col = false) ∧
      Frame { disp := true } s t

/-- R141, R142. `DRW Vx,Vy,n`: the cell at (row, col) flips exactly when sprite row `row - V[y]`, below `n`,
has bit `7 - (col - V[x])` set, the columns being `V[x]` to `V[x] + 7`; no wrap-around; VF and every other
register, memory and `I` unchanged. The bit order is decision D17, the wrap of the address decision D10, the
opcode number decision D9. -/
def Obligations.DrawSprite : Prop :=
  (∀ w : Word, w &&& 0xF000 = 0xD000 → decodeKind w = .instr (.drw (xField w) (yField w) (nField w))) ∧
  ∀ (s : State) (x y : Reg) (n : Nibble),
    ∃ t, exec (.drw x y n) s = .next t ∧
      (∀ row col, row < 32 → col < 64 → dispCell t.disp row col =
        (dispCell s.disp row col ^^
          (decide ((s.getV y).toNat ≤ row) && decide (row < (s.getV y).toNat + n.toNat) &&
            decide ((s.getV x).toNat ≤ col) && decide (col < (s.getV x).toNat + 8) &&
            (s.memRead (s.i.toNat + (row - (s.getV y).toNat))).getLsbD (7 - (col - (s.getV x).toNat))))) ∧
      Frame { disp := true } s t

/-- R141 corner case (f): drawing the same sprite twice at the same place restores the buffer. -/
def Obligations.DrawTwiceRestores : Prop :=
  ∀ (s : State) (x y : Reg) (n : Nibble),
    ∃ t u, exec (.drw x y n) s = .next t ∧ exec (.drw x y n) t = .next u ∧ u = s

/-! ## Keys and timers -/

/-- R150, R151. `SKIP.KY Vx` skips iff `V[x] <= 15` and that key's bit is set, `SKIP.KN Vx` exactly when
`SKIP.KY Vx` does not. A missing key bit reading 0 is decision D18; the opcode numbers R75 marks gk are
general knowledge (decision D9, assumption 12). -/
def Obligations.KeySkips : Prop :=
  (∀ w : Word, w &&& 0xF0FF = 0xE09E → decodeKind w = .instr (.skipKy (xField w))) ∧
  (∀ w : Word, w &&& 0xF0FF = 0xE0A1 → decodeKind w = .instr (.skipKn (xField w))) ∧
  ∀ (s : State) (x : Reg),
    (∃ t, exec (.skipKy x) s = .next t ∧
      t.pc = (if (s.getV x).toNat ≤ 15 ∧ s.keys.toNat / 2 ^ (s.getV x).toNat % 2 = 1
        then s.pc + 2 else s.pc) ∧ Frame { pc := true } s t) ∧
    (∃ t, exec (.skipKn x) s = .next t ∧
      t.pc = (if (s.getV x).toNat ≤ 15 ∧ s.keys.toNat / 2 ^ (s.getV x).toNat % 2 = 1
        then s.pc else s.pc + 2) ∧ Frame { pc := true } s t)

/-- R153. `WAITKEY Vx`: with no key down `pc` goes back by 2 and no register is written; else `Vx` gets the
low byte of the key mask and `pc` stays advanced. The narrowing to the low byte is decision D19, the opcode
number decision D9. -/
def Obligations.WaitKey : Prop :=
  (∀ w : Word, w &&& 0xF0FF = 0xF00A → decodeKind w = .instr (.waitKey (xField w))) ∧
  (∀ (s : State) (x : Reg), s.keys = 0 →
    ∃ t, exec (.waitKey x) s = .next t ∧ t.pc = s.pc - 2 ∧ Frame { pc := true } s t) ∧
  (∀ (s : State) (x : Reg), s.keys ≠ 0 →
    ∃ t, exec (.waitKey x) s = .next t ∧ (t.getV x).toNat = s.keys.toNat % 256 ∧
      Frame { regs := [x] } s t)

/-- R152, R154, R155. `MOV Vx,DELAY`, `MOV DELAY,Vx` and `MOV SOUND,Vx`. The opcode numbers Fx07, Fx15 and
Fx18 are no statement of the source (R75 marks them gk, general knowledge: decision D9, assumption 12). -/
def Obligations.TimerMoves : Prop :=
  (∀ w : Word, w &&& 0xF0FF = 0xF007 → decodeKind w = .instr (.movFromDelay (xField w))) ∧
  (∀ w : Word, w &&& 0xF0FF = 0xF015 → decodeKind w = .instr (.movDelay (xField w))) ∧
  (∀ w : Word, w &&& 0xF0FF = 0xF018 → decodeKind w = .instr (.movSound (xField w))) ∧
  ∀ (s : State) (x : Reg),
    (∃ t, exec (.movFromDelay x) s = .next t ∧ t.getV x = s.dt ∧ Frame { regs := [x] } s t) ∧
    (∃ t, exec (.movDelay x) s = .next t ∧ t.dt = s.getV x ∧ Frame { dt := true } s t) ∧
    (∃ t, exec (.movSound x) s = .next t ∧ t.st = s.getV x ∧ Frame { st := true } s t)
end

