-- ==== Sys2Proof/Laws/State.lean ====
section
/-! SUPPORT. What each named update of State does to each field and to the reads of a register, of a memory
byte and of the derived stack depth: one lemma per field per update, each true by unfolding once. -/

namespace Sys2Proof.Machine

/-! ### setV -/

@[simp] theorem State.setV_v (s : State) (x : Reg) (b : Byte) : (s.setV x b).v = s.v.set x.toNat b x.isLt := rfl
@[simp] theorem State.setV_i (s : State) (x : Reg) (b : Byte) : (s.setV x b).i = s.i := rfl
@[simp] theorem State.setV_pc (s : State) (x : Reg) (b : Byte) : (s.setV x b).pc = s.pc := rfl
@[simp] theorem State.setV_stack (s : State) (x : Reg) (b : Byte) : (s.setV x b).stack = s.stack := rfl
@[simp] theorem State.setV_dt (s : State) (x : Reg) (b : Byte) : (s.setV x b).dt = s.dt := rfl
@[simp] theorem State.setV_st (s : State) (x : Reg) (b : Byte) : (s.setV x b).st = s.st := rfl
@[simp] theorem State.setV_disp (s : State) (x : Reg) (b : Byte) : (s.setV x b).disp = s.disp := rfl
@[simp] theorem State.setV_keys (s : State) (x : Reg) (b : Byte) : (s.setV x b).keys = s.keys := rfl
@[simp] theorem State.setV_paused (s : State) (x : Reg) (b : Byte) : (s.setV x b).paused = s.paused := rfl
@[simp] theorem State.setV_cause (s : State) (x : Reg) (b : Byte) : (s.setV x b).cause = s.cause := rfl
@[simp] theorem State.setV_mem (s : State) (x : Reg) (b : Byte) : (s.setV x b).mem = s.mem := rfl
@[simp] theorem State.setV_cfg (s : State) (x : Reg) (b : Byte) : (s.setV x b).cfg = s.cfg := rfl
@[simp] theorem State.setV_draws (s : State) (x : Reg) (b : Byte) : (s.setV x b).draws = s.draws := rfl
@[simp] theorem State.setV_inputs (s : State) (x : Reg) (b : Byte) : (s.setV x b).inputs = s.inputs := rfl
@[simp] theorem State.setV_byteAt (s : State) (x : Reg) (b : Byte) (a : Nat) :
    (s.setV x b).byteAt a = s.byteAt a := rfl

/-! ### setI -/

@[simp] theorem State.setI_v (s : State) (w : Word) : (s.setI w).v = s.v := rfl
@[simp] theorem State.setI_i (s : State) (w : Word) : (s.setI w).i = w := rfl
@[simp] theorem State.setI_pc (s : State) (w : Word) : (s.setI w).pc = s.pc := rfl
@[simp] theorem State.setI_stack (s : State) (w : Word) : (s.setI w).stack = s.stack := rfl
@[simp] theorem State.setI_dt (s : State) (w : Word) : (s.setI w).dt = s.dt := rfl
@[simp] theorem State.setI_st (s : State) (w : Word) : (s.setI w).st = s.st := rfl
@[simp] theorem State.setI_disp (s : State) (w : Word) : (s.setI w).disp = s.disp := rfl
@[simp] theorem State.setI_keys (s : State) (w : Word) : (s.setI w).keys = s.keys := rfl
@[simp] theorem State.setI_paused (s : State) (w : Word) : (s.setI w).paused = s.paused := rfl
@[simp] theorem State.setI_cause (s : State) (w : Word) : (s.setI w).cause = s.cause := rfl
@[simp] theorem State.setI_mem (s : State) (w : Word) : (s.setI w).mem = s.mem := rfl
@[simp] theorem State.setI_cfg (s : State) (w : Word) : (s.setI w).cfg = s.cfg := rfl
@[simp] theorem State.setI_draws (s : State) (w : Word) : (s.setI w).draws = s.draws := rfl
@[simp] theorem State.setI_inputs (s : State) (w : Word) : (s.setI w).inputs = s.inputs := rfl
@[simp] theorem State.setI_getV (s : State) (w : Word) (r : Reg) :
    (s.setI w).getV r = s.getV r := rfl
@[simp] theorem State.setI_byteAt (s : State) (w : Word) (a : Nat) :
    (s.setI w).byteAt a = s.byteAt a := rfl

/-! ### setPc -/

@[simp] theorem State.setPc_v (s : State) (w : Word) : (s.setPc w).v = s.v := rfl
@[simp] theorem State.setPc_i (s : State) (w : Word) : (s.setPc w).i = s.i := rfl
@[simp] theorem State.setPc_pc (s : State) (w : Word) : (s.setPc w).pc = w := rfl
@[simp] theorem State.setPc_stack (s : State) (w : Word) : (s.setPc w).stack = s.stack := rfl
@[simp] theorem State.setPc_dt (s : State) (w : Word) : (s.setPc w).dt = s.dt := rfl
@[simp] theorem State.setPc_st (s : State) (w : Word) : (s.setPc w).st = s.st := rfl
@[simp] theorem State.setPc_disp (s : State) (w : Word) : (s.setPc w).disp = s.disp := rfl
@[simp] theorem State.setPc_keys (s : State) (w : Word) : (s.setPc w).keys = s.keys := rfl
@[simp] theorem State.setPc_paused (s : State) (w : Word) : (s.setPc w).paused = s.paused := rfl
@[simp] theorem State.setPc_cause (s : State) (w : Word) : (s.setPc w).cause = s.cause := rfl
@[simp] theorem State.setPc_mem (s : State) (w : Word) : (s.setPc w).mem = s.mem := rfl
@[simp] theorem State.setPc_cfg (s : State) (w : Word) : (s.setPc w).cfg = s.cfg := rfl
@[simp] theorem State.setPc_draws (s : State) (w : Word) : (s.setPc w).draws = s.draws := rfl
@[simp] theorem State.setPc_inputs (s : State) (w : Word) : (s.setPc w).inputs = s.inputs := rfl
@[simp] theorem State.setPc_getV (s : State) (w : Word) (r : Reg) :
    (s.setPc w).getV r = s.getV r := rfl
@[simp] theorem State.setPc_byteAt (s : State) (w : Word) (a : Nat) :
    (s.setPc w).byteAt a = s.byteAt a := rfl

/-! ### setDt -/

@[simp] theorem State.setDt_v (s : State) (b : Byte) : (s.setDt b).v = s.v := rfl
@[simp] theorem State.setDt_i (s : State) (b : Byte) : (s.setDt b).i = s.i := rfl
@[simp] theorem State.setDt_pc (s : State) (b : Byte) : (s.setDt b).pc = s.pc := rfl
@[simp] theorem State.setDt_stack (s : State) (b : Byte) : (s.setDt b).stack = s.stack := rfl
@[simp] theorem State.setDt_dt (s : State) (b : Byte) : (s.setDt b).dt = b := rfl
@[simp] theorem State.setDt_st (s : State) (b : Byte) : (s.setDt b).st = s.st := rfl
@[simp] theorem State.setDt_disp (s : State) (b : Byte) : (s.setDt b).disp = s.disp := rfl
@[simp] theorem State.setDt_keys (s : State) (b : Byte) : (s.setDt b).keys = s.keys := rfl
@[simp] theorem State.setDt_paused (s : State) (b : Byte) : (s.setDt b).paused = s.paused := rfl
@[simp] theorem State.setDt_cause (s : State) (b : Byte) : (s.setDt b).cause = s.cause := rfl
@[simp] theorem State.setDt_mem (s : State) (b : Byte) : (s.setDt b).mem = s.mem := rfl
@[simp] theorem State.setDt_cfg (s : State) (b : Byte) : (s.setDt b).cfg = s.cfg := rfl
@[simp] theorem State.setDt_draws (s : State) (b : Byte) : (s.setDt b).draws = s.draws := rfl
@[simp] theorem State.setDt_inputs (s : State) (b : Byte) : (s.setDt b).inputs = s.inputs := rfl
@[simp] theorem State.setDt_getV (s : State) (b : Byte) (r : Reg) :
    (s.setDt b).getV r = s.getV r := rfl
@[simp] theorem State.setDt_byteAt (s : State) (b : Byte) (a : Nat) :
    (s.setDt b).byteAt a = s.byteAt a := rfl

/-! ### setSt -/

@[simp] theorem State.setSt_v (s : State) (b : Byte) : (s.setSt b).v = s.v := rfl
@[simp] theorem State.setSt_i (s : State) (b : Byte) : (s.setSt b).i = s.i := rfl
@[simp] theorem State.setSt_pc (s : State) (b : Byte) : (s.setSt b).pc = s.pc := rfl
@[simp] theorem State.setSt_stack (s : State) (b : Byte) : (s.setSt b).stack = s.stack := rfl
@[simp] theorem State.setSt_dt (s : State) (b : Byte) : (s.setSt b).dt = s.dt := rfl
@[simp] theorem State.setSt_st (s : State) (b : Byte) : (s.setSt b).st = b := rfl
@[simp] theorem State.setSt_disp (s : State) (b : Byte) : (s.setSt b).disp = s.disp := rfl
@[simp] theorem State.setSt_keys (s : State) (b : Byte) : (s.setSt b).keys = s.keys := rfl
@[simp] theorem State.setSt_paused (s : State) (b : Byte) : (s.setSt b).paused = s.paused := rfl
@[simp] theorem State.setSt_cause (s : State) (b : Byte) : (s.setSt b).cause = s.cause := rfl
@[simp] theorem State.setSt_mem (s : State) (b : Byte) : (s.setSt b).mem = s.mem := rfl
@[simp] theorem State.setSt_cfg (s : State) (b : Byte) : (s.setSt b).cfg = s.cfg := rfl
@[simp] theorem State.setSt_draws (s : State) (b : Byte) : (s.setSt b).draws = s.draws := rfl
@[simp] theorem State.setSt_inputs (s : State) (b : Byte) : (s.setSt b).inputs = s.inputs := rfl
@[simp] theorem State.setSt_getV (s : State) (b : Byte) (r : Reg) :
    (s.setSt b).getV r = s.getV r := rfl
@[simp] theorem State.setSt_byteAt (s : State) (b : Byte) (a : Nat) :
    (s.setSt b).byteAt a = s.byteAt a := rfl

/-! ### setKeys -/

@[simp] theorem State.setKeys_v (s : State) (k : Word) : (s.setKeys k).v = s.v := rfl
@[simp] theorem State.setKeys_i (s : State) (k : Word) : (s.setKeys k).i = s.i := rfl
@[simp] theorem State.setKeys_pc (s : State) (k : Word) : (s.setKeys k).pc = s.pc := rfl
@[simp] theorem State.setKeys_stack (s : State) (k : Word) : (s.setKeys k).stack = s.stack := rfl
@[simp] theorem State.setKeys_dt (s : State) (k : Word) : (s.setKeys k).dt = s.dt := rfl
@[simp] theorem State.setKeys_st (s : State) (k : Word) : (s.setKeys k).st = s.st := rfl
@[simp] theorem State.setKeys_disp (s : State) (k : Word) : (s.setKeys k).disp = s.disp := rfl
@[simp] theorem State.setKeys_keys (s : State) (k : Word) : (s.setKeys k).keys = k := rfl
@[simp] theorem State.setKeys_paused (s : State) (k : Word) : (s.setKeys k).paused = s.paused := rfl
@[simp] theorem State.setKeys_cause (s : State) (k : Word) : (s.setKeys k).cause = s.cause := rfl
@[simp] theorem State.setKeys_mem (s : State) (k : Word) : (s.setKeys k).mem = s.mem := rfl
@[simp] theorem State.setKeys_cfg (s : State) (k : Word) : (s.setKeys k).cfg = s.cfg := rfl
@[simp] theorem State.setKeys_draws (s : State) (k : Word) : (s.setKeys k).draws = s.draws := rfl
@[simp] theorem State.setKeys_inputs (s : State) (k : Word) : (s.setKeys k).inputs = s.inputs := rfl
@[simp] theorem State.setKeys_getV (s : State) (k : Word) (r : Reg) :
    (s.setKeys k).getV r = s.getV r := rfl
@[simp] theorem State.setKeys_byteAt (s : State) (k : Word) (a : Nat) :
    (s.setKeys k).byteAt a = s.byteAt a := rfl

/-! ### setDisp -/

@[simp] theorem State.setDisp_v (s : State) (d : Display) : (s.setDisp d).v = s.v := rfl
@[simp] theorem State.setDisp_i (s : State) (d : Display) : (s.setDisp d).i = s.i := rfl
@[simp] theorem State.setDisp_pc (s : State) (d : Display) : (s.setDisp d).pc = s.pc := rfl
@[simp] theorem State.setDisp_stack (s : State) (d : Display) : (s.setDisp d).stack = s.stack := rfl
@[simp] theorem State.setDisp_dt (s : State) (d : Display) : (s.setDisp d).dt = s.dt := rfl
@[simp] theorem State.setDisp_st (s : State) (d : Display) : (s.setDisp d).st = s.st := rfl
@[simp] theorem State.setDisp_disp (s : State) (d : Display) : (s.setDisp d).disp = d := rfl
@[simp] theorem State.setDisp_keys (s : State) (d : Display) : (s.setDisp d).keys = s.keys := rfl
@[simp] theorem State.setDisp_paused (s : State) (d : Display) : (s.setDisp d).paused = s.paused := rfl
@[simp] theorem State.setDisp_cause (s : State) (d : Display) : (s.setDisp d).cause = s.cause := rfl
@[simp] theorem State.setDisp_mem (s : State) (d : Display) : (s.setDisp d).mem = s.mem := rfl
@[simp] theorem State.setDisp_cfg (s : State) (d : Display) : (s.setDisp d).cfg = s.cfg := rfl
@[simp] theorem State.setDisp_draws (s : State) (d : Display) : (s.setDisp d).draws = s.draws := rfl
@[simp] theorem State.setDisp_inputs (s : State) (d : Display) : (s.setDisp d).inputs = s.inputs := rfl
@[simp] theorem State.setDisp_getV (s : State) (d : Display) (r : Reg) :
    (s.setDisp d).getV r = s.getV r := rfl
@[simp] theorem State.setDisp_byteAt (s : State) (d : Display) (a : Nat) :
    (s.setDisp d).byteAt a = s.byteAt a := rfl

/-! ### memWrite -/

@[simp] theorem State.memWrite_v (s : State) (a : Nat) (b : Byte) : (s.memWrite a b).v = s.v := rfl
@[simp] theorem State.memWrite_i (s : State) (a : Nat) (b : Byte) : (s.memWrite a b).i = s.i := rfl
@[simp] theorem State.memWrite_pc (s : State) (a : Nat) (b : Byte) : (s.memWrite a b).pc = s.pc := rfl
@[simp] theorem State.memWrite_stack (s : State) (a : Nat) (b : Byte) : (s.memWrite a b).stack = s.stack := rfl
@[simp] theorem State.memWrite_dt (s : State) (a : Nat) (b : Byte) : (s.memWrite a b).dt = s.dt := rfl
@[simp] theorem State.memWrite_st (s : State) (a : Nat) (b : Byte) : (s.memWrite a b).st = s.st := rfl
@[simp] theorem State.memWrite_disp (s : State) (a : Nat) (b : Byte) : (s.memWrite a b).disp = s.disp := rfl
@[simp] theorem State.memWrite_keys (s : State) (a : Nat) (b : Byte) : (s.memWrite a b).keys = s.keys := rfl
@[simp] theorem State.memWrite_paused (s : State) (a : Nat) (b : Byte) : (s.memWrite a b).paused = s.paused := rfl
@[simp] theorem State.memWrite_cause (s : State) (a : Nat) (b : Byte) : (s.memWrite a b).cause = s.cause := rfl
@[simp] theorem State.memWrite_mem (s : State) (a : Nat) (b : Byte) : (s.memWrite a b).mem = memPut s.cfg s.mem (effAddr a) b := rfl
@[simp] theorem State.memWrite_cfg (s : State) (a : Nat) (b : Byte) : (s.memWrite a b).cfg = s.cfg := rfl
@[simp] theorem State.memWrite_draws (s : State) (a : Nat) (b : Byte) : (s.memWrite a b).draws = s.draws := rfl
@[simp] theorem State.memWrite_inputs (s : State) (a : Nat) (b : Byte) : (s.memWrite a b).inputs = s.inputs := rfl
@[simp] theorem State.memWrite_getV (s : State) (a : Nat) (b : Byte) (r : Reg) :
    (s.memWrite a b).getV r = s.getV r := rfl

/-! ### push -/

@[simp] theorem State.push_v (s : State) (w : Word) : (s.push w).v = s.v := rfl
@[simp] theorem State.push_i (s : State) (w : Word) : (s.push w).i = s.i := rfl
@[simp] theorem State.push_pc (s : State) (w : Word) : (s.push w).pc = s.pc := rfl
@[simp] theorem State.push_stack (s : State) (w : Word) : (s.push w).stack = w :: s.stack := rfl
@[simp] theorem State.push_dt (s : State) (w : Word) : (s.push w).dt = s.dt := rfl
@[simp] theorem State.push_st (s : State) (w : Word) : (s.push w).st = s.st := rfl
@[simp] theorem State.push_disp (s : State) (w : Word) : (s.push w).disp = s.disp := rfl
@[simp] theorem State.push_keys (s : State) (w : Word) : (s.push w).keys = s.keys := rfl
@[simp] theorem State.push_paused (s : State) (w : Word) : (s.push w).paused = s.paused := rfl
@[simp] theorem State.push_cause (s : State) (w : Word) : (s.push w).cause = s.cause := rfl
@[simp] theorem State.push_mem (s : State) (w : Word) : (s.push w).mem = s.mem := rfl
@[simp] theorem State.push_cfg (s : State) (w : Word) : (s.push w).cfg = s.cfg := rfl
@[simp] theorem State.push_draws (s : State) (w : Word) : (s.push w).draws = s.draws := rfl
@[simp] theorem State.push_inputs (s : State) (w : Word) : (s.push w).inputs = s.inputs := rfl
@[simp] theorem State.push_getV (s : State) (w : Word) (r : Reg) :
    (s.push w).getV r = s.getV r := rfl
@[simp] theorem State.push_byteAt (s : State) (w : Word) (a : Nat) :
    (s.push w).byteAt a = s.byteAt a := rfl

/-! ### dropTop -/

@[simp] theorem State.dropTop_v (s : State) : (s.dropTop).v = s.v := rfl
@[simp] theorem State.dropTop_i (s : State) : (s.dropTop).i = s.i := rfl
@[simp] theorem State.dropTop_pc (s : State) : (s.dropTop).pc = s.pc := rfl
@[simp] theorem State.dropTop_stack (s : State) : (s.dropTop).stack = s.stack.tail := rfl
@[simp] theorem State.dropTop_dt (s : State) : (s.dropTop).dt = s.dt := rfl
@[simp] theorem State.dropTop_st (s : State) : (s.dropTop).st = s.st := rfl
@[simp] theorem State.dropTop_disp (s : State) : (s.dropTop).disp = s.disp := rfl
@[simp] theorem State.dropTop_keys (s : State) : (s.dropTop).keys = s.keys := rfl
@[simp] theorem State.dropTop_paused (s : State) : (s.dropTop).paused = s.paused := rfl
@[simp] theorem State.dropTop_cause (s : State) : (s.dropTop).cause = s.cause := rfl
@[simp] theorem State.dropTop_mem (s : State) : (s.dropTop).mem = s.mem := rfl
@[simp] theorem State.dropTop_cfg (s : State) : (s.dropTop).cfg = s.cfg := rfl
@[simp] theorem State.dropTop_draws (s : State) : (s.dropTop).draws = s.draws := rfl
@[simp] theorem State.dropTop_inputs (s : State) : (s.dropTop).inputs = s.inputs := rfl
@[simp] theorem State.dropTop_getV (s : State) (r : Reg) :
    (s.dropTop).getV r = s.getV r := rfl
@[simp] theorem State.dropTop_byteAt (s : State) (a : Nat) :
    (s.dropTop).byteAt a = s.byteAt a := rfl

/-! ### consumeDraw -/

@[simp] theorem State.consumeDraw_v (s : State) : (s.consumeDraw).v = s.v := rfl
@[simp] theorem State.consumeDraw_i (s : State) : (s.consumeDraw).i = s.i := rfl
@[simp] theorem State.consumeDraw_pc (s : State) : (s.consumeDraw).pc = s.pc := rfl
@[simp] theorem State.consumeDraw_stack (s : State) : (s.consumeDraw).stack = s.stack := rfl
@[simp] theorem State.consumeDraw_dt (s : State) : (s.consumeDraw).dt = s.dt := rfl
@[simp] theorem State.consumeDraw_st (s : State) : (s.consumeDraw).st = s.st := rfl
@[simp] theorem State.consumeDraw_disp (s : State) : (s.consumeDraw).disp = s.disp := rfl
@[simp] theorem State.consumeDraw_keys (s : State) : (s.consumeDraw).keys = s.keys := rfl
@[simp] theorem State.consumeDraw_paused (s : State) : (s.consumeDraw).paused = s.paused := rfl
@[simp] theorem State.consumeDraw_cause (s : State) : (s.consumeDraw).cause = s.cause := rfl
@[simp] theorem State.consumeDraw_mem (s : State) : (s.consumeDraw).mem = s.mem := rfl
@[simp] theorem State.consumeDraw_cfg (s : State) : (s.consumeDraw).cfg = s.cfg := rfl
@[simp] theorem State.consumeDraw_draws (s : State) : (s.consumeDraw).draws = s.draws + 1 := rfl
@[simp] theorem State.consumeDraw_inputs (s : State) : (s.consumeDraw).inputs = s.inputs := rfl
@[simp] theorem State.consumeDraw_getV (s : State) (r : Reg) :
    (s.consumeDraw).getV r = s.getV r := rfl
@[simp] theorem State.consumeDraw_byteAt (s : State) (a : Nat) :
    (s.consumeDraw).byteAt a = s.byteAt a := rfl

/-! ### raiseHalt -/

@[simp] theorem State.raiseHalt_v (s : State) (c : Cause) : (s.raiseHalt c).v = s.v := rfl
@[simp] theorem State.raiseHalt_i (s : State) (c : Cause) : (s.raiseHalt c).i = s.i := rfl
@[simp] theorem State.raiseHalt_pc (s : State) (c : Cause) : (s.raiseHalt c).pc = s.pc := rfl
@[simp] theorem State.raiseHalt_stack (s : State) (c : Cause) : (s.raiseHalt c).stack = s.stack := rfl
@[simp] theorem State.raiseHalt_dt (s : State) (c : Cause) : (s.raiseHalt c).dt = s.dt := rfl
@[simp] theorem State.raiseHalt_st (s : State) (c : Cause) : (s.raiseHalt c).st = s.st := rfl
@[simp] theorem State.raiseHalt_disp (s : State) (c : Cause) : (s.raiseHalt c).disp = s.disp := rfl
@[simp] theorem State.raiseHalt_keys (s : State) (c : Cause) : (s.raiseHalt c).keys = s.keys := rfl
@[simp] theorem State.raiseHalt_paused (s : State) (c : Cause) : (s.raiseHalt c).paused = true := rfl
@[simp] theorem State.raiseHalt_cause (s : State) (c : Cause) : (s.raiseHalt c).cause = c := rfl
@[simp] theorem State.raiseHalt_mem (s : State) (c : Cause) : (s.raiseHalt c).mem = s.mem := rfl
@[simp] theorem State.raiseHalt_cfg (s : State) (c : Cause) : (s.raiseHalt c).cfg = s.cfg := rfl
@[simp] theorem State.raiseHalt_draws (s : State) (c : Cause) : (s.raiseHalt c).draws = s.draws := rfl
@[simp] theorem State.raiseHalt_inputs (s : State) (c : Cause) : (s.raiseHalt c).inputs = s.inputs := rfl
@[simp] theorem State.raiseHalt_getV (s : State) (c : Cause) (r : Reg) :
    (s.raiseHalt c).getV r = s.getV r := rfl
@[simp] theorem State.raiseHalt_byteAt (s : State) (c : Cause) (a : Nat) :
    (s.raiseHalt c).byteAt a = s.byteAt a := rfl

/-! ### resume -/

@[simp] theorem State.resume_v (s : State) : (s.resume).v = s.v := rfl
@[simp] theorem State.resume_i (s : State) : (s.resume).i = s.i := rfl
@[simp] theorem State.resume_pc (s : State) : (s.resume).pc = s.pc := rfl
@[simp] theorem State.resume_stack (s : State) : (s.resume).stack = s.stack := rfl
@[simp] theorem State.resume_dt (s : State) : (s.resume).dt = s.dt := rfl
@[simp] theorem State.resume_st (s : State) : (s.resume).st = s.st := rfl
@[simp] theorem State.resume_disp (s : State) : (s.resume).disp = s.disp := rfl
@[simp] theorem State.resume_keys (s : State) : (s.resume).keys = s.keys := rfl
@[simp] theorem State.resume_paused (s : State) : (s.resume).paused = false := rfl
@[simp] theorem State.resume_cause (s : State) : (s.resume).cause = .none := rfl
@[simp] theorem State.resume_mem (s : State) : (s.resume).mem = s.mem := rfl
@[simp] theorem State.resume_cfg (s : State) : (s.resume).cfg = s.cfg := rfl
@[simp] theorem State.resume_draws (s : State) : (s.resume).draws = s.draws := rfl
@[simp] theorem State.resume_inputs (s : State) : (s.resume).inputs = s.inputs := rfl
@[simp] theorem State.resume_getV (s : State) (r : Reg) :
    (s.resume).getV r = s.getV r := rfl
@[simp] theorem State.resume_byteAt (s : State) (a : Nat) :
    (s.resume).byteAt a = s.byteAt a := rfl

/-! ### suspend -/

@[simp] theorem State.suspend_v (s : State) : (s.suspend).v = s.v := rfl
@[simp] theorem State.suspend_i (s : State) : (s.suspend).i = s.i := rfl
@[simp] theorem State.suspend_pc (s : State) : (s.suspend).pc = s.pc := rfl
@[simp] theorem State.suspend_stack (s : State) : (s.suspend).stack = s.stack := rfl
@[simp] theorem State.suspend_dt (s : State) : (s.suspend).dt = s.dt := rfl
@[simp] theorem State.suspend_st (s : State) : (s.suspend).st = s.st := rfl
@[simp] theorem State.suspend_disp (s : State) : (s.suspend).disp = s.disp := rfl
@[simp] theorem State.suspend_keys (s : State) : (s.suspend).keys = s.keys := rfl
@[simp] theorem State.suspend_paused (s : State) : (s.suspend).paused = true := rfl
@[simp] theorem State.suspend_cause (s : State) : (s.suspend).cause = s.cause := rfl
@[simp] theorem State.suspend_mem (s : State) : (s.suspend).mem = s.mem := rfl
@[simp] theorem State.suspend_cfg (s : State) : (s.suspend).cfg = s.cfg := rfl
@[simp] theorem State.suspend_draws (s : State) : (s.suspend).draws = s.draws := rfl
@[simp] theorem State.suspend_inputs (s : State) : (s.suspend).inputs = s.inputs := rfl
@[simp] theorem State.suspend_getV (s : State) (r : Reg) :
    (s.suspend).getV r = s.getV r := rfl
@[simp] theorem State.suspend_byteAt (s : State) (a : Nat) :
    (s.suspend).byteAt a = s.byteAt a := rfl

/-! ### advance -/

@[simp] theorem State.advance_v (s : State) : (s.advance).v = s.v := rfl
@[simp] theorem State.advance_i (s : State) : (s.advance).i = s.i := rfl
@[simp] theorem State.advance_pc (s : State) : (s.advance).pc = s.pc + 2 := rfl
@[simp] theorem State.advance_stack (s : State) : (s.advance).stack = s.stack := rfl
@[simp] theorem State.advance_dt (s : State) : (s.advance).dt = s.dt := rfl
@[simp] theorem State.advance_st (s : State) : (s.advance).st = s.st := rfl
@[simp] theorem State.advance_disp (s : State) : (s.advance).disp = s.disp := rfl
@[simp] theorem State.advance_keys (s : State) : (s.advance).keys = s.keys := rfl
@[simp] theorem State.advance_paused (s : State) : (s.advance).paused = s.paused := rfl
@[simp] theorem State.advance_cause (s : State) : (s.advance).cause = s.cause := rfl
@[simp] theorem State.advance_mem (s : State) : (s.advance).mem = s.mem := rfl
@[simp] theorem State.advance_cfg (s : State) : (s.advance).cfg = s.cfg := rfl
@[simp] theorem State.advance_draws (s : State) : (s.advance).draws = s.draws := rfl
@[simp] theorem State.advance_inputs (s : State) : (s.advance).inputs = s.inputs := rfl
@[simp] theorem State.advance_getV (s : State) (r : Reg) :
    (s.advance).getV r = s.getV r := rfl
@[simp] theorem State.advance_byteAt (s : State) (a : Nat) :
    (s.advance).byteAt a = s.byteAt a := rfl

end Sys2Proof.Machine
end

