-- ==== Sys2Proof/Laws/Memory.lean ====
section
/-! SUPPORT. The memory (20_memory.md R51 to R53): reads after writes, for every list, and the canonical
form kept by every memory operation. -/

namespace Sys2Proof.Machine

theorem memLookup_memInsert (m : Memory) (a p : Nat) (b : Byte) :
    memLookup (memInsert m a b) p = if a = p then some b else memLookup m p := by
  induction m with
  | nil => simp [memInsert, memLookup]
  | cons e rest ih =>
    obtain ⟨k, x⟩ := e
    simp only [memInsert]
    by_cases h1 : a < k
    · simp [h1, memLookup]
    · by_cases h2 : a = k
      · subst h2; simp only [lt_irrefl, if_false, if_true, memLookup]; split <;> rfl
      · simp only [h1, h2, if_false, memLookup, ih]
        by_cases h3 : k = p
        · subst h3; simp [h2]
        · simp [h3]

theorem memLookup_memErase (m : Memory) (a p : Nat) :
    memLookup (memErase m a) p = if a = p then none else memLookup m p := by
  induction m with
  | nil => simp [memErase, memLookup]
  | cons e rest ih =>
    obtain ⟨k, x⟩ := e
    simp only [memErase] at ih ⊢
    by_cases h1 : k = a
    · subst h1; simp only [List.filter_cons, ne_eq, not_true_eq_false, decide_false, memLookup]
      simp only [ne_eq] at ih
      rw [if_neg (by simp), ih]
      by_cases h2 : k = p <;> simp [h2]
    · simp only [List.filter_cons, ne_eq, h1, not_false_eq_true, decide_true, if_true, memLookup]
      simp only [ne_eq] at ih
      rw [ih]
      by_cases h2 : k = p
      · subst h2; simp [Ne.symm h1]
      · simp [h2]

/-- Reading a cell after a write: the byte written there, the old byte everywhere else. -/
theorem memGet_memPut (c : Config.Cfg) (m : Memory) (a p : Nat) (b : Byte) :
    memGet c (memPut c m a b) p = if a = p then b else memGet c m p := by
  unfold memGet memPut
  split
  · next h =>
    rw [memLookup_memErase]
    by_cases h2 : a = p
    · subst h2; simp [h]
    · simp [h2]
  · rw [memLookup_memInsert]
    by_cases h2 : a = p <;> simp [h2]

/-- Every entry of the list after an insertion is the new one or an old one with another address. -/
theorem mem_memInsert {m : Memory} {a : Nat} {b : Byte} {e : Host.Cell} (h : e ∈ memInsert m a b) :
    e = (a, b) ∨ e ∈ m := by
  induction m with
  | nil => simpa [memInsert] using h
  | cons k rest ih =>
    obtain ⟨k, x⟩ := k
    simp only [memInsert] at h
    split at h
    · simpa using h
    · split at h
      · simp only [List.mem_cons] at h ⊢; tauto
      · simp only [List.mem_cons] at h ⊢
        rcases h with h | h
        · tauto
        · rcases ih h with h | h <;> tauto

theorem sorted_memInsert {m : Memory} (hm : m.Pairwise (fun p q => p.1 < q.1)) (a : Nat) (b : Byte) :
    (memInsert m a b).Pairwise (fun p q => p.1 < q.1) := by
  induction m with
  | nil => simp [memInsert]
  | cons k rest ih =>
    obtain ⟨k, x⟩ := k
    obtain ⟨h1, h2⟩ := List.pairwise_cons.mp hm
    simp only [memInsert]
    split
    · next h =>
      refine List.pairwise_cons.mpr ⟨?_, hm⟩
      intro e he
      rcases List.mem_cons.mp he with rfl | he
      · exact h
      · exact lt_trans h (h1 e he)
    · split
      · next h => subst h; exact List.pairwise_cons.mpr ⟨h1, h2⟩
      · refine List.pairwise_cons.mpr ⟨?_, ih h2⟩
        intro e he
        rcases mem_memInsert he with rfl | he
        · simp only; omega
        · exact h1 e he

/-- Storing a byte in one of the 4096 cells keeps the canonical form. -/
theorem memPut_wf {c : Config.Cfg} {m : Memory} (h : m.wf c) {a : Nat} (ha : a < 4096) (b : Byte) :
    Memory.wf c (memPut c m a b) := by
  obtain ⟨hs, he⟩ := h
  unfold memPut
  split
  · refine ⟨hs.filter _, fun e hm => he e ?_⟩
    exact (List.mem_filter.mp hm).1
  · next hb =>
    refine ⟨sorted_memInsert hs a b, fun e hm => ?_⟩
    rcases mem_memInsert hm with rfl | hm
    · exact ⟨ha, hb⟩
    · exact he e hm

theorem effAddr_lt (a : Nat) : effAddr a < 4096 := Nat.mod_lt _ (by decide)

/-- One byte of memory after a `MemWrite`: the written cell holds the byte, every other cell is unchanged
(R53). -/
theorem byteAt_memWrite (s : State) (a p : Nat) (b : Byte) :
    (s.memWrite a b).byteAt p = if effAddr a = p then b else s.byteAt p :=
  memGet_memPut s.cfg s.mem (effAddr a) p b

@[simp] theorem memWrite_getV (s : State) (a : Nat) (b : Byte) (r : Reg) :
    (s.memWrite a b).getV r = s.getV r := rfl

/-- `MemWrite` keeps the canonical form. -/
theorem memWrite_wf {s : State} (h : s.mem.wf s.cfg) (a : Nat) (b : Byte) :
    (s.memWrite a b).mem.wf (s.memWrite a b).cfg :=
  memPut_wf h (effAddr_lt a) b

/-- The reset memory is in canonical form, for every configuration. -/
theorem resetWith_mem_wf (c : Config.Cfg) : (State.resetWith c).mem.wf (State.resetWith c).cfg := by
  simp [State.resetWith, Memory.wf]

end Sys2Proof.Machine
end

