-- ==== Sys2Proof/Laws/Cycle.lean ====
section
/-! SUPPORT. What a cycle, an event and a step can do (40_cycle.md R90, 10_state.md R33): the case lemmas
later proofs cite instead of unfolding `cycle`, `applyEvent` or `step`. -/

namespace Sys2Proof.Machine

/-- The four ways a cycle goes: fetch guard, advance guard, an instruction, an unknown word. -/
theorem cycle_cases (s : State) :
    (s.pc.toNat > 0xFFE ∧ cycle s = .next (s.raiseHalt .pcOob)) ∨
    (s.pc.toNat = 0xFFE ∧ cycle s = .next (s.advance.raiseHalt .pcOob)) ∨
    (∃ i, s.pc.toNat ≤ 0xFFD ∧ decodeKind s.fetchWord = .instr i ∧ cycle s = exec i s.advance) ∨
    (s.pc.toNat ≤ 0xFFD ∧ decodeKind s.fetchWord = .unknown ∧ cycle s = .next s.advance) := by
  have hadv : s.pc.toNat ≤ 0xFFE → s.advance.pc.toNat = s.pc.toNat + 2 := by
    intro h
    simp only [State.advance_pc, BitVec.toNat_add, BitVec.reduceToNat]
    omega
  by_cases h : s.pc.toNat > 0xFFE
  · exact .inl ⟨h, by simp [cycle, h]⟩
  · have ha := hadv (by omega)
    by_cases h2 : s.pc.toNat = 0xFFE
    · refine .inr (.inl ⟨h2, ?_⟩)
      simp only [cycle, h, if_false]
      rw [if_pos (by omega)]
    · have hc : cycle s = applyKind (decodeKind s.fetchWord) s.advance := by
        simp only [cycle, h, if_false]
        rw [if_neg (by omega)]
      cases hk : decodeKind s.fetchWord with
      | instr i => exact .inr (.inr (.inl ⟨i, by omega, rfl, by rw [hc, hk]; rfl⟩))
      | unknown => exact .inr (.inr (.inr ⟨by omega, rfl, by rw [hc, hk]; rfl⟩))

/-- `pc` after the advance, where the cycle reaches it (R93). -/
theorem advance_pc_toNat {s : State} (h : s.pc.toNat ≤ 0xFFE) : s.advance.pc.toNat = s.pc.toNat + 2 := by
  simp only [State.advance_pc, BitVec.toNat_add, BitVec.reduceToNat]
  omega

/-- The ways a step goes: a listed event, or with none listed a cycle of a running machine or nothing. -/
theorem step_cases (s : State) :
    (∃ e es, s.inputs = e :: es ∧ step s = applyEvent e { s with inputs := es }) ∨
    (s.inputs = [] ∧ s.paused = false ∧ step s = cycle s) ∨
    (s.inputs = [] ∧ s.paused = true ∧ step s = .next s) := by
  cases h : s.inputs with
  | cons e es => exact .inl ⟨e, es, rfl, by simp [step, nextEvent, h]⟩
  | nil => cases hp : s.paused <;> simp [step, nextEvent, h, hp]

/-- The next states an event can give. -/
theorem applyEvent_cases {e : Event} {s t : State} (h : applyEvent e s = .next t) :
    (cycle s = .next t ∧ (e = .run ∧ s.paused = false ∨ e = .singleStep ∧ s.paused = true)) ∨
    (e = .timerTick ∧ t = s.timerTick) ∨ (∃ k, e = .keySet k ∧ t = s.setKeys k) ∨
    (∃ b, e = .pause b ∧ t = s.setPause b) ∨ (e = .reset ∧ t = s.resetEvent) ∨
    (∃ base bytes, e = .romLoad base bytes ∧ t = s.romLoad base bytes) := by
  cases e with
  | run =>
    simp only [applyEvent] at h
    split at h
    · cases h
    · next hp => exact .inl ⟨h, .inl ⟨rfl, by simpa using hp⟩⟩
  | singleStep =>
    simp only [applyEvent] at h
    split at h
    · next hp => exact .inl ⟨h, .inr ⟨rfl, hp⟩⟩
    · cases h
  | timerTick | keySet k | pause b | reset | romLoad base bytes => simp_all [applyEvent]

/-- A ROM load changes memory alone. -/
theorem romLoad_eq (s : State) (base : Nat) (bytes : List Byte) :
    s.romLoad base bytes = { s with mem := (s.romLoad base bytes).mem } := by
  induction bytes generalizing s base with
  | nil => rfl
  | cons b bs ih =>
    simp only [State.romLoad]
    split
    · rw [ih]; rfl
    · rfl

/-- A ROM load keeps the memory's canonical form. -/
theorem romLoad_wf {s : State} (h : s.mem.wf s.cfg) (base : Nat) (bytes : List Byte) :
    (s.romLoad base bytes).mem.wf (s.romLoad base bytes).cfg := by
  induction bytes generalizing s base with
  | nil => exact h
  | cons b bs ih =>
    simp only [State.romLoad]
    split
    · exact ih (memWrite_wf h base b) _
    · exact h

end Sys2Proof.Machine
end

