-- ==== Sys2Proof/Laws/Display.lean ====
section
/-! SUPPORT. The framebuffer (44_display.md): a cell after a flip, after clearing, and two displays with the
same cells are equal. -/

namespace Sys2Proof.Machine

/-- A cell after one XOR: flipped if it is the named cell and inside the grid, else unchanged (R142). -/
theorem dispCell_dispFlip (d : Display) (row col r c : Nat) :
    dispCell (dispFlip d row col) r c =
      if r = row ∧ c = col ∧ r < 32 ∧ c < 64 then !dispCell d r c else dispCell d r c := by
  by_cases hin : r < 32 ∧ c < 64
  · obtain ⟨hr, hc⟩ := hin
    unfold dispFlip
    split
    · next h =>
      obtain ⟨h1, h2⟩ := h
      simp only [dispCell, hr, hc, and_self, and_true, dif_pos]
      by_cases e1 : r = row
      · subst e1
        by_cases e2 : c = col
        · subst e2; simp
        · simp [e2, Vector.getElem_set_ne, Ne.symm e2]
      · simp [e1, Vector.getElem_set_ne, Ne.symm e1]
    · next h =>
      rw [if_neg]
      rintro ⟨rfl, rfl, -, -⟩
      exact h ⟨by omega, by omega⟩
  · rw [if_neg (fun h => hin ⟨h.2.2.1, h.2.2.2⟩)]
    simp [dispCell, hin]

@[simp] theorem dispCell_dispClear (r c : Nat) : dispCell dispClear r c = false := by
  unfold dispCell dispClear
  split <;> simp

theorem dispCell_outside (d : Display) {r c : Nat} (h : ¬(r < 32 ∧ c < 64)) : dispCell d r c = false := by
  simp [dispCell, h]

/-- Two display buffers with the same 2048 cells are equal. -/
theorem display_ext {d e : Display} (h : ∀ r c, dispCell d r c = dispCell e r c) : d = e := by
  apply Vector.ext
  intro r hr
  apply Vector.ext
  intro c hc
  have := h r c
  simpa [dispCell, hr, hc] using this

/-- A sprite row flips the cell at display row `row` and columns `left` to `left + 7` where its bit is 1. -/
theorem dispCell_spriteRow (left row : Nat) (b : Byte) (d : Display) (r c : Nat) :
    dispCell (spriteRow left row b d) r c =
      if r = row ∧ r < 32 ∧ c < 64 ∧ left ≤ c ∧ c < left + 8 ∧ b.getLsbD (7 - (c - left)) = true
      then !dispCell d r c else dispCell d r c := by
  have key : ∀ k, dispCell ((List.range k).foldl
      (fun d c => if b.getLsbD (7 - c) then dispFlip d row (left + c) else d) d) r c =
      if r = row ∧ r < 32 ∧ c < 64 ∧ left ≤ c ∧ c < left + k ∧ b.getLsbD (7 - (c - left)) = true
      then !dispCell d r c else dispCell d r c := by
    intro k
    induction k with
    | zero => simp; omega
    | succ k ih =>
      rw [List.range_succ, List.foldl_append]
      simp only [List.foldl_cons, List.foldl_nil]
      by_cases hk : c = left + k
      · subst hk
        rw [if_neg (by omega)] at ih
        have e : left + k - left = k := by omega
        by_cases hb : b.getLsbD (7 - k) = true
        · rw [if_pos hb, dispCell_dispFlip, ih]
          simp only [e, hb, true_and, and_true]
          congr 1
          apply propext; constructor
          · rintro ⟨h1, h2, h3⟩; exact ⟨h1, h2, h3, by omega, by omega⟩
          · rintro ⟨h1, h2, h3, -, -⟩; exact ⟨h1, h2, h3⟩
        · rw [if_neg hb, ih, if_neg (by rw [e]; tauto)]
      · have same : ∀ d', dispCell (if b.getLsbD (7 - k) then dispFlip d' row (left + k) else d') r c =
            dispCell d' r c := by
          intro d'
          split
          · rw [dispCell_dispFlip, if_neg (fun h => hk h.2.1)]
          · rfl
        rw [same, ih]
        congr 1
        apply propext; constructor <;> rintro ⟨h1, h2, h3, h4, h5, h6⟩ <;>
          exact ⟨h1, h2, h3, h4, by omega, h6⟩
  exact key 8

end Sys2Proof.Machine
end

