-- ==== Sys2Proof/Laws/Encoding.lean ====
section
/-! SUPPORT. The fields of an assembled word (30_encoding.md R71, R80), as equations later proofs rewrite
with. -/

namespace Sys2Proof

theorem opField_toNat (w : Word) : (opField w).toNat = w.toNat / 4096 := by
  have := w.isLt
  simp [opField, BitVec.extractLsb'_toNat, Nat.shiftRight_eq_div_pow]; omega

theorem xField_toNat (w : Word) : (xField w).toNat = w.toNat / 256 % 16 := by
  simp [xField, BitVec.extractLsb'_toNat, Nat.shiftRight_eq_div_pow]

theorem yField_toNat (w : Word) : (yField w).toNat = w.toNat / 16 % 16 := by
  simp [yField, BitVec.extractLsb'_toNat, Nat.shiftRight_eq_div_pow]

theorem nField_toNat (w : Word) : (nField w).toNat = w.toNat % 16 := by
  simp [nField]

theorem kkField_toNat (w : Word) : (kkField w).toNat = w.toNat % 256 := by
  simp [kkField]

theorem nnnField_toNat (w : Word) : (nnnField w).toNat = w.toNat % 4096 := by
  simp [nnnField]

theorem assembleXYN_toNat (o x y n : Nibble) :
    (assembleXYN o x y n).toNat = o.toNat * 4096 + x.toNat * 256 + y.toNat * 16 + n.toNat := by
  have h1 := x.isLt; have h2 := y.isLt; have h3 := n.isLt
  simp only [assembleXYN, BitVec.toNat_append]
  rw [← Nat.shiftLeft_add_eq_or_of_lt h3, ← Nat.shiftLeft_add_eq_or_of_lt h2, ← Nat.shiftLeft_add_eq_or_of_lt h1]
  simp only [Nat.shiftLeft_eq]
  omega

theorem assembleXK_toNat (o x : Nibble) (kk : Byte) :
    (assembleXK o x kk).toNat = o.toNat * 4096 + x.toNat * 256 + kk.toNat := by
  have h1 := x.isLt; have h2 := kk.isLt
  simp only [assembleXK, BitVec.toNat_append]
  rw [← Nat.shiftLeft_add_eq_or_of_lt h2, ← Nat.shiftLeft_add_eq_or_of_lt h1]
  simp only [Nat.shiftLeft_eq]
  omega

theorem assembleA_toNat (o : Nibble) (nnn : Addr12) : (assembleA o nnn).toNat = o.toNat * 4096 + nnn.toNat := by
  have h1 := nnn.isLt
  simp only [assembleA, BitVec.toNat_append]
  rw [← Nat.shiftLeft_add_eq_or_of_lt h1]
  simp only [Nat.shiftLeft_eq]

section fields

variable (o x y n : Nibble) (kk : Byte) (nnn : Addr12)

@[simp] theorem opField_assembleXYN : opField (assembleXYN o x y n) = o := by
  apply BitVec.eq_of_toNat_eq; rw [opField_toNat, assembleXYN_toNat]; omega

@[simp] theorem xField_assembleXYN : xField (assembleXYN o x y n) = x := by
  apply BitVec.eq_of_toNat_eq; rw [xField_toNat, assembleXYN_toNat]; omega

@[simp] theorem yField_assembleXYN : yField (assembleXYN o x y n) = y := by
  apply BitVec.eq_of_toNat_eq; rw [yField_toNat, assembleXYN_toNat]; omega

@[simp] theorem nField_assembleXYN : nField (assembleXYN o x y n) = n := by
  apply BitVec.eq_of_toNat_eq; rw [nField_toNat, assembleXYN_toNat]; omega

@[simp] theorem opField_assembleXK : opField (assembleXK o x kk) = o := by
  apply BitVec.eq_of_toNat_eq; rw [opField_toNat, assembleXK_toNat]; omega

@[simp] theorem xField_assembleXK : xField (assembleXK o x kk) = x := by
  apply BitVec.eq_of_toNat_eq; rw [xField_toNat, assembleXK_toNat]; omega

@[simp] theorem kkField_assembleXK : kkField (assembleXK o x kk) = kk := by
  apply BitVec.eq_of_toNat_eq; rw [kkField_toNat, assembleXK_toNat]; omega

@[simp] theorem opField_assembleA : opField (assembleA o nnn) = o := by
  apply BitVec.eq_of_toNat_eq; rw [opField_toNat, assembleA_toNat]; omega

@[simp] theorem nnnField_assembleA : nnnField (assembleA o nnn) = nnn := by
  apply BitVec.eq_of_toNat_eq; rw [nnnField_toNat, assembleA_toNat]; omega

end fields

/-- The byte at the lower address is the high byte, and back (20_memory.md R54). -/
@[simp] theorem hiByte_wordOfBytes (hi lo : Byte) : hiByte (wordOfBytes hi lo) = hi := by
  have h := lo.isLt
  apply BitVec.eq_of_toNat_eq
  simp only [hiByte, wordOfBytes, BitVec.extractLsb'_toNat, BitVec.toNat_append, Nat.shiftRight_eq_div_pow]
  rw [← Nat.shiftLeft_add_eq_or_of_lt h, Nat.shiftLeft_eq]; omega

@[simp] theorem loByte_wordOfBytes (hi lo : Byte) : loByte (wordOfBytes hi lo) = lo := by
  have h := lo.isLt
  apply BitVec.eq_of_toNat_eq
  simp only [loByte, wordOfBytes, BitVec.extractLsb'_toNat, BitVec.toNat_append, Nat.shiftRight_eq_div_pow]
  rw [← Nat.shiftLeft_add_eq_or_of_lt h, Nat.shiftLeft_eq]; omega

@[simp] theorem wordOfBytes_bytes (w : Word) : wordOfBytes (hiByte w) (loByte w) = w := by
  have h := w.isLt
  have h2 : w.toNat % 256 < 2 ^ 8 := Nat.mod_lt _ (by decide)
  apply BitVec.eq_of_toNat_eq
  simp only [hiByte, loByte, wordOfBytes, BitVec.extractLsb'_toNat, BitVec.toNat_append,
    Nat.shiftRight_eq_div_pow, Nat.pow_zero, Nat.div_one]
  rw [← Nat.shiftLeft_add_eq_or_of_lt h2, Nat.shiftLeft_eq]; omega

theorem nibble_and_ones (o : Nibble) : o &&& 0xF = o := by revert o; decide

theorem byte_and_ones (b : Byte) : b &&& 0xFF = b := BitVec.and_allOnes

/-- A word that matches a mask with all bits of `op` has the pattern's `op` (R75). -/
theorem op_of_mask {w m c : Word} (h : w &&& m = c) (hm : opField m = 0xF) : opField w = opField c := by
  rw [← h]
  unfold opField at *
  rw [BitVec.extractLsb'_and, hm]
  exact (nibble_and_ones _).symm

/-- A word that matches a mask with all bits of `n` has the pattern's `n` (R75). -/
theorem n_of_mask {w m c : Word} (h : w &&& m = c) (hm : nField m = 0xF) : nField w = nField c := by
  rw [← h]
  unfold nField at *
  rw [BitVec.extractLsb'_and, hm]
  exact (nibble_and_ones _).symm

/-- A word that matches a mask with all bits of `kk` has the pattern's `kk` (R75). -/
theorem kk_of_mask {w m c : Word} (h : w &&& m = c) (hm : kkField m = 0xFF) : kkField w = kkField c := by
  rw [← h]
  unfold kkField at *
  rw [BitVec.extractLsb'_and, hm]
  exact (byte_and_ones _).symm

end Sys2Proof
end

