-- ==== Sys2Proof/Laws/Exec.lean ====
section
/-! SUPPORT. `exec` on each instruction is that instruction's meaning: one equation per constructor, to
rewrite with instead of unfolding `exec`. -/

namespace Sys2Proof.Machine

theorem exec_cls (x : Reg) (s : State) :
    exec (.cls x) s = execCls s := rfl

theorem exec_ret (x : Reg) (s : State) :
    exec (.ret x) s = execRet s := rfl

theorem exec_jump (nnn : Addr12) (s : State) :
    exec (.jump nnn) s = execJump nnn s := rfl

theorem exec_call (nnn : Addr12) (s : State) :
    exec (.call nnn) s = execCall nnn s := rfl

theorem exec_skipEImm (x : Reg) (kk : Byte) (s : State) :
    exec (.skipEImm x kk) s = execSkipEImm x kk s := rfl

theorem exec_skipNeImm (x : Reg) (kk : Byte) (s : State) :
    exec (.skipNeImm x kk) s = execSkipNeImm x kk s := rfl

theorem exec_skipEReg (x : Reg) (y : Reg) (n : Nibble) (s : State) :
    exec (.skipEReg x y n) s = execSkipEReg x y s := rfl

theorem exec_movImm (x : Reg) (kk : Byte) (s : State) :
    exec (.movImm x kk) s = execMovImm x kk s := rfl

theorem exec_addImm (x : Reg) (kk : Byte) (s : State) :
    exec (.addImm x kk) s = execAddImm x kk s := rfl

theorem exec_movReg (x : Reg) (y : Reg) (s : State) :
    exec (.movReg x y) s = execMovReg x y s := rfl

theorem exec_orReg (x : Reg) (y : Reg) (s : State) :
    exec (.orReg x y) s = execOrReg x y s := rfl

theorem exec_andReg (x : Reg) (y : Reg) (s : State) :
    exec (.andReg x y) s = execAndReg x y s := rfl

theorem exec_xorReg (x : Reg) (y : Reg) (s : State) :
    exec (.xorReg x y) s = execXorReg x y s := rfl

theorem exec_addReg (x : Reg) (y : Reg) (s : State) :
    exec (.addReg x y) s = execAddReg x y s := rfl

theorem exec_subReg (x : Reg) (y : Reg) (s : State) :
    exec (.subReg x y) s = execSubReg x y s := rfl

theorem exec_shr (x : Reg) (y : Reg) (s : State) :
    exec (.shr x y) s = execShr x s := rfl

theorem exec_subnReg (x : Reg) (y : Reg) (s : State) :
    exec (.subnReg x y) s = execSubnReg x y s := rfl

theorem exec_shl (x : Reg) (y : Reg) (s : State) :
    exec (.shl x y) s = execShl x s := rfl

theorem exec_skipNeReg (x : Reg) (y : Reg) (n : Nibble) (s : State) :
    exec (.skipNeReg x y n) s = execSkipNeReg x y s := rfl

theorem exec_movI (nnn : Addr12) (s : State) :
    exec (.movI nnn) s = execMovI nnn s := rfl

theorem exec_jumpV0 (nnn : Addr12) (s : State) :
    exec (.jumpV0 nnn) s = execJumpV0 nnn s := rfl

theorem exec_rndmsk (x : Reg) (kk : Byte) (s : State) :
    exec (.rndmsk x kk) s = execRndmsk x kk s := rfl

theorem exec_drw (x : Reg) (y : Reg) (n : Nibble) (s : State) :
    exec (.drw x y n) s = execDrw x y n s := rfl

theorem exec_skipKy (x : Reg) (s : State) :
    exec (.skipKy x) s = execSkipKy x s := rfl

theorem exec_skipKn (x : Reg) (s : State) :
    exec (.skipKn x) s = execSkipKn x s := rfl

theorem exec_movFromDelay (x : Reg) (s : State) :
    exec (.movFromDelay x) s = execMovFromDelay x s := rfl

theorem exec_waitKey (x : Reg) (s : State) :
    exec (.waitKey x) s = execWaitKey x s := rfl

theorem exec_movDelay (x : Reg) (s : State) :
    exec (.movDelay x) s = execMovDelay x s := rfl

theorem exec_movSound (x : Reg) (s : State) :
    exec (.movSound x) s = execMovSound x s := rfl

theorem exec_addI (x : Reg) (s : State) :
    exec (.addI x) s = execAddI x s := rfl

theorem exec_fontI (x : Reg) (s : State) :
    exec (.fontI x) s = execFontI x s := rfl

theorem exec_movBcd (x : Reg) (s : State) :
    exec (.movBcd x) s = execMovBcd x s := rfl

theorem exec_memStore (x : Reg) (s : State) :
    exec (.memStore x) s = execMemStore x s := rfl

theorem exec_memLoad (x : Reg) (s : State) :
    exec (.memLoad x) s = execMemLoad x s := rfl

end Sys2Proof.Machine
end

