-- ==== Sys2Proof/Laws/Registers.lean ====
section
/-! SUPPORT. Reads after writes of V registers (10_state.md R20), and the two writes of a flag-writing
instruction (42_alu.md R110). -/

namespace Sys2Proof.Machine

@[simp] theorem getV_setV_self (s : State) (x : Reg) (b : Byte) : (s.setV x b).getV x = b := by
  simp [State.getV, State.setV]

theorem getV_setV_of_ne (s : State) {x r : Reg} (b : Byte) (h : r ≠ x) : (s.setV x b).getV r = s.getV r := by
  have hne : x.toNat ≠ r.toNat := fun e => h (BitVec.eq_of_toNat_eq e.symm)
  simp [State.getV, State.setV, hne]

theorem getV_setV (s : State) (x r : Reg) (b : Byte) :
    (s.setV x b).getV r = if r = x then b else s.getV r := by
  split
  · next h => subst h; exact getV_setV_self s r b
  · next h => exact getV_setV_of_ne s b h

@[simp] theorem setV_byteAt (s : State) (x : Reg) (b : Byte) (a : Nat) :
    (s.setV x b).byteAt a = s.byteAt a := rfl

/-- Every register after a flag-writing instruction: the destination holds the result, VF the flag unless
it is the destination, and every other register is unchanged (R110). -/
theorem getV_writeFlagged (s : State) (x r : Reg) (flag result : Byte) :
    (s.writeFlagged x flag result).getV r =
      if r = x then result else if r = vf then flag else s.getV r := by
  simp only [State.writeFlagged, getV_setV]

/-- A flag is the byte 0 or 1 (R21). -/
theorem flagByte_eq_zero_or_one (c : Bool) : flagByte c = 0 ∨ flagByte c = 1 := by
  cases c <;> simp [flagByte]

end Sys2Proof.Machine
end

