-- ==== Sys2Proof/Laws/Operands.lean ====
section
/-! SUPPORT. What the operand operations can do: the skip, the bulk loops of `MOV.MEM`
(43_index_memory.md R134, R135), and the wrap of the effective address. -/

namespace Sys2Proof.Machine

/-- A skip moves `pc` by 2 more or not at all, and changes nothing else. -/
theorem skipIf_cases (s : State) (c : Bool) :
    (c = true ∧ s.skipIf c = s.setPc (s.pc + 2)) ∨ (c = false ∧ s.skipIf c = s) := by
  cases c <;> simp [State.skipIf]

/-- A bulk store changes memory alone: it is the state before with another memory. -/
theorem storeRegs_eq (s : State) (m : Nat) : s.storeRegs m = { s with mem := (s.storeRegs m).mem } := by
  have key : ∀ (l : List Nat) (t : State),
      l.foldl (fun t k => t.memWrite (t.i.toNat + k) (t.getV (BitVec.ofNat 4 k))) t =
        { t with mem := (l.foldl (fun t k => t.memWrite (t.i.toNat + k) (t.getV (BitVec.ofNat 4 k))) t).mem } := by
    intro l
    induction l with
    | nil => intro t; rfl
    | cons k l ih => intro t; simp only [List.foldl_cons]; rw [ih]; rfl
  exact key _ s

/-- A bulk load changes the V registers alone. -/
theorem loadRegs_eq (s : State) (m : Nat) : s.loadRegs m = { s with v := (s.loadRegs m).v } := by
  have key : ∀ (l : List Nat) (t : State),
      l.foldl (fun t k => t.setV (BitVec.ofNat 4 k) (t.memRead (t.i.toNat + k))) t =
        { t with v := (l.foldl (fun t k => t.setV (BitVec.ofNat 4 k) (t.memRead (t.i.toNat + k))) t).v } := by
    intro l
    induction l with
    | nil => intro t; rfl
    | cons k l ih => intro t; simp only [List.foldl_cons]; rw [ih]; rfl
  exact key _ s

/-- A register after a bulk load of `V[0]` to `V[m]`, `m < 16` (R135). -/
theorem getV_loadRegs (s : State) {m : Nat} (hm : m < 16) (r : Reg) :
    (s.loadRegs m).getV r = if r.toNat ≤ m then s.memRead (s.i.toNat + r.toNat) else s.getV r := by
  have key : ∀ k, k ≤ 16 →
      let t := (List.range k).foldl (fun t j => t.setV (BitVec.ofNat 4 j) (t.memRead (t.i.toNat + j))) s
      t.i = s.i ∧ (∀ a, t.memRead a = s.memRead a) ∧
        t.getV r = if r.toNat < k then s.memRead (s.i.toNat + r.toNat) else s.getV r := by
    intro k
    induction k with
    | zero => intro _; exact ⟨rfl, fun _ => rfl, by simp⟩
    | succ k ih =>
      intro hk
      obtain ⟨h1, h2, h3⟩ := ih (by omega)
      simp only [List.range_succ, List.foldl_append, List.foldl_cons, List.foldl_nil]
      refine ⟨h1, h2, ?_⟩
      rw [getV_setV, h1, h2, h3]
      have hb : (BitVec.ofNat 4 k).toNat = k := by simp; omega
      by_cases hr : r.toNat = k
      · rw [if_pos (BitVec.eq_of_toNat_eq (by rw [hr, hb])), if_pos (by omega), hr]
      · rw [if_neg (fun e => hr (by rw [e, hb]))]
        by_cases hlt : r.toNat < k
        · rw [if_pos hlt, if_pos (by omega)]
        · rw [if_neg hlt, if_neg (by omega)]
  have := (key (m + 1) (by omega)).2.2
  simp only [Nat.lt_succ_iff] at this
  exact this

/-- The effective addresses of up to 4096 consecutive bytes are all different (20_memory.md R57). -/
theorem effAddr_add_inj {a j k : Nat} (hj : j < 4096) (hk : k < 4096) (h : effAddr (a + j) = effAddr (a + k)) :
    j = k := by
  simp only [effAddr, Config.memSize] at h
  omega

/-- A memory byte after a bulk store of `V[0]` to `V[m]`, `m < 16`: cell `(I + k) mod 4096` holds `V[k]` for
`k` in `0..m`, and every other cell is unchanged (R134). -/
theorem byteAt_storeRegs (s : State) {m : Nat} (hm : m < 16) :
    (∀ k, k ≤ m → (s.storeRegs m).byteAt (effAddr (s.i.toNat + k)) = s.getV (BitVec.ofNat 4 k)) ∧
    (∀ a, (∀ k, k ≤ m → effAddr (s.i.toNat + k) ≠ a) → (s.storeRegs m).byteAt a = s.byteAt a) := by
  have key : ∀ n, n ≤ 16 →
      let t := (List.range n).foldl (fun t k => t.memWrite (t.i.toNat + k) (t.getV (BitVec.ofNat 4 k))) s
      t.i = s.i ∧ (∀ r, t.getV r = s.getV r) ∧
      (∀ k, k < n → t.byteAt (effAddr (s.i.toNat + k)) = s.getV (BitVec.ofNat 4 k)) ∧
      (∀ a, (∀ k, k < n → effAddr (s.i.toNat + k) ≠ a) → t.byteAt a = s.byteAt a) := by
    intro n
    induction n with
    | zero => intro _; exact ⟨rfl, fun _ => rfl, fun k hk => absurd hk (by omega), fun _ _ => rfl⟩
    | succ n ih =>
      intro hn
      obtain ⟨h1, h2, h3, h4⟩ := ih (by omega)
      simp only [List.range_succ, List.foldl_append, List.foldl_cons, List.foldl_nil]
      refine ⟨h1, h2, ?_, ?_⟩
      · intro k hk
        rw [byteAt_memWrite, h1, h2]
        by_cases e : k = n
        · subst e; rw [if_pos rfl]
        · rw [if_neg (fun h => e (effAddr_add_inj (by omega) (by omega) h).symm)]
          exact h3 k (by omega)
      · intro a ha
        rw [byteAt_memWrite, h1, if_neg (ha n (by omega))]
        exact h4 a fun k hk => ha k (by omega)
  have := key (m + 1) (by omega)
  exact ⟨fun k hk => this.2.2.1 k (by omega), fun a ha => this.2.2.2 a fun k hk => ha k (by omega)⟩

/-- A bulk store keeps the memory's canonical form. -/
theorem storeRegs_wf {s : State} (h : s.mem.wf s.cfg) (m : Nat) :
    (s.storeRegs m).mem.wf (s.storeRegs m).cfg := by
  have key : ∀ (l : List Nat) (t : State), t.mem.wf t.cfg →
      let u := l.foldl (fun t k => t.memWrite (t.i.toNat + k) (t.getV (BitVec.ofNat 4 k))) t
      u.mem.wf u.cfg := by
    intro l
    induction l with
    | nil => intro t ht; exact ht
    | cons k l ih => intro t ht; exact ih _ (memWrite_wf ht _ _)
  exact key _ s h

end Sys2Proof.Machine
end

