-- ==== Sys2Proof/Laws/Parameters.lean ====
section
/-! SUPPORT. Two states that differ only in the open parameters (00_scope.md R6): reads give the same in both,
and the shared operations over memory, registers and the display keep them so. -/

namespace Sys2Proof.Safety

open Sys2Proof.Machine

/-- The second state is the first with another configuration and another list of cells. -/
theorem SameButParameters.eq {s s' : State} (h : SameButParameters s s') :
    s' = { s with cfg := s'.cfg, mem := s'.mem } := h.1

/-- A data read gives the same byte in both states (20_memory.md R52). -/
theorem SameButParameters.memRead {s s' : State} (h : SameButParameters s s') (a : Nat) :
    s'.memRead a = s.memRead a := h.2 _ (Nat.mod_lt _ (by decide))

/-- A store keeps them the same but for the parameters (R53). -/
theorem SameButParameters.memWrite {s s' : State} (h : SameButParameters s s') (a : Nat) (b : Byte) :
    SameButParameters (s.memWrite a b) (s'.memWrite a b) := by
  refine ⟨?_, fun p hp => ?_⟩
  · rw [h.1]; rfl
  · rw [byteAt_memWrite, byteAt_memWrite, h.2 p hp]

/-- A register write keeps them the same but for the parameters. -/
theorem SameButParameters.setV {s s' : State} (h : SameButParameters s s') (x : Reg) (b : Byte) :
    SameButParameters (s.setV x b) (s'.setV x b) :=
  ⟨by rw [h.1]; rfl, h.2⟩

/-- The bulk store with one bound in both (43_index_memory.md R134). -/
theorem SameButParameters.storeRegs {s s' : State} (h : SameButParameters s s') (m : Nat) :
    SameButParameters (s.storeRegs m) (s'.storeRegs m) := by
  have key : ∀ (l : List Nat) (t t' : State), SameButParameters t t' → SameButParameters
      (l.foldl (fun t k => t.memWrite (t.i.toNat + k) (t.getV (BitVec.ofNat 4 k))) t)
      (l.foldl (fun t k => t.memWrite (t.i.toNat + k) (t.getV (BitVec.ofNat 4 k))) t') := by
    intro l
    induction l with
    | nil => exact fun _ _ h => h
    | cons k l ih =>
      intro t t' h
      have hi : t'.i = t.i := by rw [h.1]
      have hv : t'.getV (BitVec.ofNat 4 k) = t.getV (BitVec.ofNat 4 k) := by rw [h.1]; rfl
      simp only [List.foldl_cons, hi, hv]
      exact ih _ _ (h.memWrite _ _)
  exact key _ _ _ h

/-- The bulk load with one bound in both (R135). -/
theorem SameButParameters.loadRegs {s s' : State} (h : SameButParameters s s') (m : Nat) :
    SameButParameters (s.loadRegs m) (s'.loadRegs m) := by
  have key : ∀ (l : List Nat) (t t' : State), SameButParameters t t' → SameButParameters
      (l.foldl (fun t k => t.setV (BitVec.ofNat 4 k) (t.memRead (t.i.toNat + k))) t)
      (l.foldl (fun t k => t.setV (BitVec.ofNat 4 k) (t.memRead (t.i.toNat + k))) t') := by
    intro l
    induction l with
    | nil => exact fun _ _ h => h
    | cons k l ih =>
      intro t t' h
      have hi : t'.i = t.i := by rw [h.1]
      simp only [List.foldl_cons, hi, h.memRead]
      exact ih _ _ (h.setV _ _)
  exact key _ _ _ h

/-- A sprite is drawn the same in both (44_display.md R141). -/
theorem SameButParameters.drawSprite {s s' : State} (h : SameButParameters s s') (left top n : Nat) :
    s'.drawSprite left top n = s.drawSprite left top n := by
  have hi : s'.i = s.i := by rw [h.1]
  have hd : s'.disp = s.disp := by rw [h.1]
  simp only [State.drawSprite, hi, hd, h.memRead]

end Sys2Proof.Safety
end

