-- ==== Sys2Proof/Laws/PerInstr.lean ====
section
/-! SUPPORT. Laws of every instruction as syntax: family EncodeRow, that the encoding of an instruction has
the fixed bits of its row of 30_encoding.md R75. -/

namespace Sys2Proof

/-- The conjunction of two concatenations, part by part, at any spelling of the width. -/
theorem append_and {u v : Nat} (a b : BitVec u) (c d : BitVec v) :
    (a ++ c) &&& (b ++ d) = (a &&& b) ++ (c &&& d) := BitVec.and_append

theorem assembleXYN_and (o x y n p q r t : Nibble) :
    assembleXYN o x y n &&& assembleXYN p q r t = assembleXYN (o &&& p) (x &&& q) (y &&& r) (n &&& t) := by
  have h1 := append_and (o ++ x ++ y) (p ++ q ++ r) n t
  rw [append_and (o ++ x) (p ++ q) y r, append_and o p x q] at h1
  exact h1

theorem assembleXK_and (o x p q : Nibble) (kk jj : Byte) :
    assembleXK o x kk &&& assembleXK p q jj = assembleXK (o &&& p) (x &&& q) (kk &&& jj) := by
  have h1 := append_and (o ++ x) (p ++ q) kk jj
  rw [append_and o p x q] at h1
  exact h1

theorem assembleA_and (o p : Nibble) (a b : Addr12) :
    assembleA o a &&& assembleA p b = assembleA (o &&& p) (a &&& b) := append_and o p a b

theorem and_zeros {u : Nat} (b : BitVec u) : b &&& 0 = 0 := BitVec.and_zero

end Sys2Proof

/-- The encoding of `i` matches its row: `encode i &&& mask = pattern` (R75). -/
def Sys2Proof.Laws.EncodeRow.Statement (i : Sys2Proof.Instr) : Prop :=
  i.encode &&& i.row.mask = i.row.pattern

namespace Sys2Proof.Laws.EncodeRow

/-- An `A` word masked to its top nibble. -/
theorem mask_A (o : Nibble) (nnn : Addr12) : assembleA o nnn &&& 0xF000 = assembleA o 0 := by
  rw [show (0xF000 : Word) = assembleA 0xF 0 by decide, assembleA_and]
  simp only [nibble_and_ones, and_zeros]

/-- An `XK` word masked to its top nibble. -/
theorem mask_XK (o x : Nibble) (kk : Byte) : assembleXK o x kk &&& 0xF000 = assembleXK o 0 0 := by
  rw [show (0xF000 : Word) = assembleXK 0xF 0 0 by decide, assembleXK_and]
  simp only [nibble_and_ones, and_zeros]

/-- An `XS` or `Z` word masked to its top nibble and low byte. -/
theorem mask_XS (o x : Nibble) (kk : Byte) : assembleXK o x kk &&& 0xF0FF = assembleXK o 0 kk := by
  rw [show (0xF0FF : Word) = assembleXK 0xF 0 0xFF by decide, assembleXK_and]
  simp only [nibble_and_ones, byte_and_ones, and_zeros]

/-- An `XY` or `XYN` word masked to its top nibble. -/
theorem mask_XYN (o x y n : Nibble) : assembleXYN o x y n &&& 0xF000 = assembleXYN o 0 0 0 := by
  rw [show (0xF000 : Word) = assembleXYN 0xF 0 0 0 by decide, assembleXYN_and]
  simp only [nibble_and_ones, and_zeros]

/-- An `XY` word of `op = 8` masked to its top and low nibbles. -/
theorem mask_XY (o x y n : Nibble) : assembleXYN o x y n &&& 0xF00F = assembleXYN o 0 0 n := by
  rw [show (0xF00F : Word) = assembleXYN 0xF 0 0 0xF by decide, assembleXYN_and]
  simp only [nibble_and_ones, and_zeros]

theorem cls (x : Reg) : Statement (.cls x) := mask_XS 0x0 x 0xE0

theorem ret (x : Reg) : Statement (.ret x) := mask_XS 0x0 x 0xEE

theorem jump (nnn : Addr12) : Statement (.jump nnn) := mask_A 0x1 nnn

theorem call (nnn : Addr12) : Statement (.call nnn) := mask_A 0x2 nnn

theorem skipEImm (x : Reg) (kk : Byte) : Statement (.skipEImm x kk) := mask_XK 0x3 x kk

theorem skipNeImm (x : Reg) (kk : Byte) : Statement (.skipNeImm x kk) := mask_XK 0x4 x kk

theorem skipEReg (x : Reg) (y : Reg) (n : Nibble) : Statement (.skipEReg x y n) := mask_XYN 0x5 x y n

theorem movImm (x : Reg) (kk : Byte) : Statement (.movImm x kk) := mask_XK 0x6 x kk

theorem addImm (x : Reg) (kk : Byte) : Statement (.addImm x kk) := mask_XK 0x7 x kk

theorem movReg (x : Reg) (y : Reg) : Statement (.movReg x y) := mask_XY 0x8 x y 0x0

theorem orReg (x : Reg) (y : Reg) : Statement (.orReg x y) := mask_XY 0x8 x y 0x1

theorem andReg (x : Reg) (y : Reg) : Statement (.andReg x y) := mask_XY 0x8 x y 0x2

theorem xorReg (x : Reg) (y : Reg) : Statement (.xorReg x y) := mask_XY 0x8 x y 0x3

theorem addReg (x : Reg) (y : Reg) : Statement (.addReg x y) := mask_XY 0x8 x y 0x4

theorem subReg (x : Reg) (y : Reg) : Statement (.subReg x y) := mask_XY 0x8 x y 0x5

theorem shr (x : Reg) (y : Reg) : Statement (.shr x y) := mask_XY 0x8 x y 0x6

theorem subnReg (x : Reg) (y : Reg) : Statement (.subnReg x y) := mask_XY 0x8 x y 0x7

theorem shl (x : Reg) (y : Reg) : Statement (.shl x y) := mask_XY 0x8 x y 0xE

theorem skipNeReg (x : Reg) (y : Reg) (n : Nibble) : Statement (.skipNeReg x y n) := mask_XYN 0x9 x y n

theorem movI (nnn : Addr12) : Statement (.movI nnn) := mask_A 0xA nnn

theorem jumpV0 (nnn : Addr12) : Statement (.jumpV0 nnn) := mask_A 0xB nnn

theorem rndmsk (x : Reg) (kk : Byte) : Statement (.rndmsk x kk) := mask_XK 0xC x kk

theorem drw (x : Reg) (y : Reg) (n : Nibble) : Statement (.drw x y n) := mask_XYN 0xD x y n

theorem skipKy (x : Reg) : Statement (.skipKy x) := mask_XS 0xE x 0x9E

theorem skipKn (x : Reg) : Statement (.skipKn x) := mask_XS 0xE x 0xA1

theorem movFromDelay (x : Reg) : Statement (.movFromDelay x) := mask_XS 0xF x 0x07

theorem waitKey (x : Reg) : Statement (.waitKey x) := mask_XS 0xF x 0x0A

theorem movDelay (x : Reg) : Statement (.movDelay x) := mask_XS 0xF x 0x15

theorem movSound (x : Reg) : Statement (.movSound x) := mask_XS 0xF x 0x18

theorem addI (x : Reg) : Statement (.addI x) := mask_XS 0xF x 0x1E

theorem fontI (x : Reg) : Statement (.fontI x) := mask_XS 0xF x 0x29

theorem movBcd (x : Reg) : Statement (.movBcd x) := mask_XS 0xF x 0x33

theorem memStore (x : Reg) : Statement (.memStore x) := mask_XS 0xF x 0x55

theorem memLoad (x : Reg) : Statement (.memLoad x) := mask_XS 0xF x 0x65

end Sys2Proof.Laws.EncodeRow
end

