-- ==== Sys2Proof/Tests/Slice0.lean ====
section
/-! SUPPORT. Tests: ill-formed terms, a decoded word for every constructor, one or two steps for every
instruction with values from 95_test_vectors.md (each test names its vector), and for every statement with
hypotheses a witness that meets them. -/

open Sys2Proof Sys2Proof.Machine Sys2Proof.Safety

namespace Sys2Proof.Tests

/-! ## Helpers -/

/-- The reset state with some V registers set. -/
def regs (l : List (Reg × Byte)) : State := l.foldl (fun s p => s.setV p.1 p.2) State.reset

/-- What `f` sees after one step that runs the word `w`, if the step gives a next state. -/
def see {α : Type} (w : Nat) (s : State) (f : State → α) : Option α :=
  match step (s.withFetchWord 16 w) with
  | .next t => some (f t)
  | _ => none

/-- What `f` sees after the event `e`, if it gives a next state. -/
def seeEvent {α : Type} (e : Event) (s : State) (f : State → α) : Option α :=
  match step { s with inputs := [e] } with
  | .next t => some (f t)
  | _ => none

/-- `V[a]` and VF. -/
def pair (a : Reg) (s : State) : Byte × Byte := (s.getV a, s.getV 15)

/-- Bytes stored from address `a` on. -/
def poke (s : State) (a : Nat) (l : List Byte) : State := s.romLoad a l

/-- The `k` bytes from address `a` on. -/
def peek (a k : Nat) (s : State) : List Byte := (List.range k).map fun j => s.byteAt (a + j)

/-- How many display cells are on. -/
def lit (s : State) : Nat := s.disp.toList.foldl (fun m row => m + row.toList.count true) 0

/-- The reset state with `pc` at `a`. -/
def at' (a : Word) : State := { State.reset with pc := a }

/-- The reset state with `k` return addresses held. -/
def deep (k : Nat) : State := { State.reset with stack := List.replicate k 0x0302 }

/-! ## Well-formedness: each check refuses an ill-formed term, and the canonical spelling passes (R76) -/

theorem test_wf_cls : (Instr.cls 3).wellFormed = false ∧ (Instr.cls 0).wellFormed = true := by decide
theorem test_wf_ret : (Instr.ret 7).wellFormed = false ∧ (Instr.ret 0).wellFormed = true := by decide
theorem test_wf_skipEReg :
    (Instr.skipEReg 10 11 7).wellFormed = false ∧ (Instr.skipEReg 10 11 0).wellFormed = true := by decide
theorem test_wf_skipNeReg :
    (Instr.skipNeReg 10 11 5).wellFormed = false ∧ (Instr.skipNeReg 10 11 0).wellFormed = true := by decide
theorem test_wf_shr : (Instr.shr 10 11).wellFormed = false ∧ (Instr.shr 10 0).wellFormed = true := by decide
theorem test_wf_shl : (Instr.shl 10 15).wellFormed = false ∧ (Instr.shl 10 0).wellFormed = true := by decide
/-- R6: a font table that would reach 0x200 is no legal configuration. -/
theorem test_wf_cfg : ¬ Config.Cfg.wf { defaultCfg with fontBase := 0x1B1 } := by decide

/-! ## Decoding (95_test_vectors.md 2.1, patterns of R75): one word for every constructor -/

theorem test_decode_op0 : decodeKind 0x00E0 = .instr (.cls 0) ∧ decodeKind 0x03E0 = .instr (.cls 3) ∧
    decodeKind 0x00EE = .instr (.ret 0) := by decide
theorem test_decode_jumps : decodeKind 0x1234 = .instr (.jump 0x234) ∧
    decodeKind 0x2ABC = .instr (.call 0xABC) ∧ decodeKind 0xBFFF = .instr (.jumpV0 0xFFF) := by decide
theorem test_decode_skips : decodeKind 0x3A3C = .instr (.skipEImm 0xA 0x3C) ∧
    decodeKind 0x4A3C = .instr (.skipNeImm 0xA 0x3C) ∧ decodeKind 0x5AB7 = .instr (.skipEReg 0xA 0xB 7) ∧
    decodeKind 0x9AB5 = .instr (.skipNeReg 0xA 0xB 5) := by decide
theorem test_decode_immediates : decodeKind 0x6A3C = .instr (.movImm 0xA 0x3C) ∧
    decodeKind 0x7A01 = .instr (.addImm 0xA 0x01) ∧ decodeKind 0xC30F = .instr (.rndmsk 3 0x0F) ∧
    decodeKind 0xA300 = .instr (.movI 0x300) := by decide
theorem test_decode_op8 : decodeKind 0x8AB0 = .instr (.movReg 0xA 0xB) ∧
    decodeKind 0x8AB1 = .instr (.orReg 0xA 0xB) ∧ decodeKind 0x8AB2 = .instr (.andReg 0xA 0xB) ∧
    decodeKind 0x8AB3 = .instr (.xorReg 0xA 0xB) ∧ decodeKind 0x8AB4 = .instr (.addReg 0xA 0xB) ∧
    decodeKind 0x8AB5 = .instr (.subReg 0xA 0xB) ∧ decodeKind 0x8AB6 = .instr (.shr 0xA 0xB) ∧
    decodeKind 0x8AB7 = .instr (.subnReg 0xA 0xB) ∧ decodeKind 0x8ABE = .instr (.shl 0xA 0xB) := by decide
theorem test_decode_draw_and_keys : decodeKind 0xD123 = .instr (.drw 1 2 3) ∧
    decodeKind 0xE19E = .instr (.skipKy 1) ∧ decodeKind 0xE1A1 = .instr (.skipKn 1) ∧
    decodeKind 0xF00A = .instr (.waitKey 0) := by decide
theorem test_decode_opF : decodeKind 0xF107 = .instr (.movFromDelay 1) ∧
    decodeKind 0xFA15 = .instr (.movDelay 0xA) ∧ decodeKind 0xF318 = .instr (.movSound 3) ∧
    decodeKind 0xF21E = .instr (.addI 2) ∧ decodeKind 0xF429 = .instr (.fontI 4) ∧
    decodeKind 0xF033 = .instr (.movBcd 0) ∧ decodeKind 0xFF55 = .instr (.memStore 15) ∧
    decodeKind 0xF265 = .instr (.memLoad 2) := by decide
theorem test_decode_unknown : decodeKind 0x0000 = .unknown ∧ decodeKind 0x00E1 = .unknown ∧
    decodeKind 0x8AB8 = .unknown ∧ decodeKind 0x8ABD = .unknown ∧ decodeKind 0x8ABF = .unknown ∧
    decodeKind 0xE19F = .unknown ∧ decodeKind 0xF066 = .unknown ∧ decodeKind 0xFFFF = .unknown := by decide
theorem test_decode_table_word : decodeTableWord 16 0x8AB6 = some (.shr 0xA 0xB) ∧
    decodeTableWord 16 0x8AB8 = none := by decide

/-! ## The cycle (2.2) -/

/-- V-CYC-1. -/
theorem test_unknown : see 0x0000 (at' 0x0300) (fun t => (t.pc, t.paused)) = some (0x0302, false) := by decide
/-- V-CYC-3: the jump at 0xFFE is not applied. -/
theorem test_advance_guard : seeEvent .run (poke (at' 0x0FFE) 0xFFE [0x12, 0x00])
    (fun t => (t.pc, t.paused, t.cause)) = some (0x1000, true, .pcOob) := by decide
/-- V-CYC-4. -/
theorem test_single_step_after_halt :
    seeEvent .singleStep { at' 0x1000 with paused := true, cause := .pcOob }
      (fun t => (t.pc, t.paused, t.cause)) = some (0x1000, true, .pcOob) := by decide
/-- V-CYC-5. -/
theorem test_fetch_guard : seeEvent .run (at' 0x0FFF) (fun t => (t.pc, t.paused, t.cause)) =
    some (0x0FFF, true, .pcOob) := by decide
/-- V-CYC-6: an odd address, the byte at the lower address high. -/
theorem test_odd_pc : seeEvent .run (poke (at' 0x0201) 0x201 [0x6A, 0x3C])
    (fun t => (t.getV 10, t.pc)) = some (0x3C, 0x0203) := by decide
/-- V-CYC-7. -/
theorem test_jump_from_0xFFD : seeEvent .run (poke (at' 0x0FFD) 0xFFD [0x12, 0x00])
    (fun t => (t.pc, t.paused)) = some (0x0200, false) := by decide
/-- V-CYC-8: `RET` at 0xFFE on an empty stack halts with `PC_OOB`. -/
theorem test_guard_before_underflow : seeEvent .run (poke (at' 0x0FFE) 0xFFE [0x00, 0xEE])
    (fun t => (t.pc, t.cause)) = some (0x1000, .pcOob) := by decide
/-- V-CYC-9. -/
theorem test_pause_0 : seeEvent (.pause false) { at' 0x1000 with paused := true, cause := .pcOob }
    (fun t => (t.pc, t.paused, t.cause)) = some (0x1000, false, .none) := by decide

/-! ## Control transfer (2.3) -/

/-- V-FLW-1. -/
theorem test_call : see 0x220E (at' 0x0204) (fun t => (t.pc, t.stack)) = some (0x020E, [0x0206]) := by decide
/-- V-FLW-5: the stack is full. -/
theorem test_call_full : see 0x2400 { deep 16 with pc := 0x0300 }
    (fun t => (t.pc, t.stack.length, t.paused, t.cause)) = some (0x0302, 16, true, .stackOverflow) := by decide
/-- V-FLW-2. -/
theorem test_ret : see 0x00EE { at' 0x0210 with stack := [0x0206] } (fun t => (t.pc, t.stack)) =
    some (0x0206, []) := by decide
/-- V-FLW-3 and S-C. -/
theorem test_ret_empty : see 0x00EE (at' 0x0208) (fun t => (t.pc, t.stack, t.paused, t.cause)) =
    some (0x020A, [], true, .stackUnderflow) := by decide
/-- V-FLW-7. -/
theorem test_jump : see 0x1FFF State.reset State.pc = some 0x0FFF := by decide
/-- V-FLW-9: the sum is not masked. -/
theorem test_jumpV0 : see 0xBFFF (regs [(0, 0xFF)]) State.pc = some 0x10FE := by decide
/-- V-FLW-10, V-FLW-11. -/
theorem test_skipEImm : see 0x332A (regs [(3, 0x2A)]) State.pc = some 0x0204 ∧
    see 0x332A (regs [(3, 0x2B)]) State.pc = some 0x0202 := by decide
/-- V-FLW-12, V-FLW-13. -/
theorem test_skipNeImm : see 0x432A (regs [(3, 0x2A)]) State.pc = some 0x0202 ∧
    see 0x432A (regs [(3, 0x00)]) State.pc = some 0x0204 := by decide
/-- V-FLW-14, V-FLW-15. -/
theorem test_skipEReg : see 0x5120 (regs [(1, 7), (2, 7)]) State.pc = some 0x0204 ∧
    see 0x5120 (regs [(1, 7), (2, 8)]) State.pc = some 0x0202 := by decide
/-- V-FLW-17, V-FLW-18. -/
theorem test_skipNeReg : see 0x9120 (regs [(1, 7), (2, 8)]) State.pc = some 0x0204 ∧
    see 0x9120 (regs [(1, 7), (2, 7)]) State.pc = some 0x0202 := by decide

/-! ## ALU (2.4) -/

/-- S-B, first word. -/
theorem test_movImm : see 0x6A3C State.reset (fun t => (t.getV 10, t.pc)) = some (0x3C, 0x0202) := by decide
/-- V-ALU-1. -/
theorem test_addImm : see 0x7101 (regs [(1, 0xFF), (15, 0x5A)]) (pair 1) = some (0x00, 0x5A) := by decide
/-- V-ALU-3. -/
theorem test_movReg : see 0x8120 (regs [(2, 0x7E)]) (pair 1) = some (0x7E, 0x00) := by decide
/-- V-ALU-4. -/
theorem test_orReg : see 0x8121 (regs [(1, 0xF0), (2, 0x0F), (15, 0x5A)]) (pair 1) = some (0xFF, 0x5A) := by
  decide
/-- V-ALU-5. -/
theorem test_andReg : see 0x8122 (regs [(1, 0xF3), (2, 0x3F), (15, 0x5A)]) (pair 1) = some (0x33, 0x5A) := by
  decide
/-- V-ALU-6. -/
theorem test_xorReg : see 0x8123 (regs [(1, 0xF3), (2, 0x3F), (15, 0x5A)]) (pair 1) = some (0xCC, 0x5A) := by
  decide
/-- V-ALU-11 and V-ALU-12. -/
theorem test_addReg : see 0x8124 (regs [(1, 0xC8), (2, 0x64)]) (pair 1) = some (0x2C, 1) ∧
    see 0x8124 (regs [(15, 0x5A)]) (pair 1) = some (0x00, 0) := by decide
/-- V-ALU-14: the destination is VF, written last. -/
theorem test_addReg_vf : see 0x8F14 (regs [(15, 0xFF), (1, 0x02)]) (pair 15) = some (0x01, 0x01) := by decide
/-- V-ALU-17 and V-ALU-18: the comparison is strict. -/
theorem test_subReg : see 0x8125 (regs [(1, 0x03), (2, 0x05)]) (pair 1) = some (0xFE, 0) ∧
    see 0x8125 (regs [(1, 0x05), (2, 0x05), (15, 9)]) (pair 1) = some (0x00, 0) := by decide
/-- V-ALU-23: the operand is the old VF. -/
theorem test_subReg_vf : see 0x81F5 (regs [(1, 0x05), (15, 0x03)]) (pair 1) = some (0x02, 1) := by decide
/-- V-ALU-24 and V-ALU-25. -/
theorem test_subnReg : see 0x8127 (regs [(1, 0x03), (2, 0x05)]) (pair 1) = some (0x02, 1) ∧
    see 0x8127 (regs [(1, 0x05), (2, 0x03)]) (pair 1) = some (0xFE, 0) := by decide
/-- V-ALU-28: `y` is ignored. -/
theorem test_shr : see 0x8126 (regs [(1, 0x05), (2, 0xEE)]) (fun t => (pair 1 t, t.getV 2)) =
    some ((0x02, 1), 0xEE) := by decide
/-- V-ALU-33. -/
theorem test_shr_vf : see 0x8F06 (regs [(15, 0x06)]) (pair 15) = some (0x03, 0x03) := by decide
/-- V-ALU-35 and V-ALU-36. -/
theorem test_shl : see 0x812E (regs [(1, 0x7F), (2, 0xEE)]) (fun t => (pair 1 t, t.getV 2)) =
    some ((0xFE, 0), 0xEE) ∧ see 0x810E (regs [(1, 0x80)]) (pair 1) = some (0x00, 1) := by decide
/-- V-ALU-39. -/
theorem test_shl_vf : see 0x8F0E (regs [(15, 0x81)]) (pair 15) = some (0x02, 0x02) := by decide
/-- V-ALU-40: the drawn byte is free, so its value is a hypothesis. -/
theorem test_rndmsk (h : Config.rnd 0 = 0xA7) :
    ∃ t, exec (.rndmsk 3 0x0F) State.reset = .next t ∧ t.getV 3 = 0x07 ∧ t.draws = 1 := by
  refine ⟨_, rfl, ?_, rfl⟩
  change Config.rnd 0 &&& 0x0F = 0x07
  rw [h]; decide

/-! ## Address register and memory (2.5) -/

/-- V-IDX-1. -/
theorem test_movI : see 0xAFFF { State.reset with i := 0xFFFF } State.i = some 0x0FFF := by decide
/-- V-IDX-2c. -/
theorem test_addI : see 0xF11E { regs [(1, 2), (15, 0x5A)] with i := 0xFFFF } (fun t => (t.i, t.getV 15)) =
    some (0x0001, 0x5A) := by decide
/-- V-IDX-3b: `ADD_I_DOUBLES`. -/
theorem test_addI_doubles :
    see 0xF21E { regs [(2, 1)] with i := 0x9000, cfg := { defaultCfg with addIDoubles := true } } State.i =
      some 0x2001 := by decide
/-- V-IDX-4b and V-IDX-4c. -/
theorem test_fontI : see 0xF429 (regs [(4, 0x0F)]) State.i = some 0x004B ∧
    see 0xF429 { regs [(4, 0x10)] with i := 0x0123 } State.i = some 0x0123 := by decide
/-- V-IDX-4d: another `FONT_BASE`. -/
theorem test_fontI_base :
    see 0xF429 { regs [(4, 0x0A)] with cfg := { defaultCfg with fontBase := 0x050 } } State.i =
      some 0x0082 := by decide
/-- V-IDX-5, value 199, and V-IDX-5c. -/
theorem test_movBcd : see 0xF033 { regs [(0, 199)] with i := 0x0300 } (peek 0x300 3) = some [1, 9, 9] ∧
    see 0xF033 { regs [(0, 56)] with i := 0x1300 } (peek 0x300 3) = some [0, 5, 6] := by decide
/-- V-IDX-5b: the addresses wrap. -/
theorem test_movBcd_wraps : see 0xF033 { regs [(0, 123)] with i := 0x0FFF }
    (fun t => (peek 0xFFF 1 t, peek 0 3 t)) = some ([1], [2, 3, 0x90]) := by decide
/-- V-IDX-6b: the value reading, and under `BULK_BY_VALUE = false` the index reading. -/
theorem test_memStore :
    see 0xF055 { regs [(0, 3), (1, 0xA1), (2, 0xA2), (3, 0xA3)] with i := 0x0400 } (peek 0x400 5) =
      some [3, 0xA1, 0xA2, 0xA3, 0] ∧
    see 0xF055 { regs [(0, 3), (1, 0xA1)] with i := 0x0400, cfg := { defaultCfg with bulkByValue := false } }
      (peek 0x400 2) = some [3, 0] := by decide
/-- V-IDX-6c: the bound 16 fails the guard. -/
theorem test_memStore_16 : see 0xF155 { regs [(0, 0x77), (1, 0x10)] with i := 0x0400 } (peek 0x400 2) =
    some [0, 0] := by decide
/-- V-IDX-7b: the bound is latched. -/
theorem test_memLoad : see 0xF165 { poke (regs [(1, 3)]) 0x400 [9, 8, 7, 6] with i := 0x0400 }
    (fun t => (t.getV 0, t.getV 1, t.getV 2, t.getV 3, t.getV 4)) = some (9, 8, 7, 6, 0) := by decide
/-- V-IDX-7c. -/
theorem test_memLoad_20 : see 0xF065 { poke (regs [(0, 0x20)]) 0x400 [9] with i := 0x0400 }
    (fun t => t.getV 0) = some 0x20 := by decide

/-! ## Display (2.6) -/

/-- V-DSP-2, the rows and the count. -/
theorem test_drw : see 0xD015 { poke (regs [(15, 0x5A)]) 0x300 [0xF0, 0x90, 0x90, 0x90, 0xF0] with i := 0x300 }
    (fun t => (lit t, dispCell t.disp 0 3, dispCell t.disp 1 3, dispCell t.disp 1 2, t.getV 15)) =
      some (14, true, true, false, 0x5A) := by decide +kernel
/-- V-DSP-4: clipped at the corner. -/
theorem test_drw_clips :
    see 0xD012 { poke (regs [(0, 0x3E), (1, 0x1F)]) 0x20A [0xF0, 0xFF] with i := 0x020A }
      (fun t => (lit t, dispCell t.disp 31 62, dispCell t.disp 31 63)) = some (2, true, true) := by
  decide +kernel
/-- V-DSP-1. -/
theorem test_cls : see 0x00E0 { State.reset with disp := Vector.replicate 32 (Vector.replicate 64 true) } lit =
    some 0 := by decide +kernel

/-! ## Keys and timers (2.7) -/

/-- V-KEY-1, V-KEY-3. -/
theorem test_skipKy : see 0xE19E { regs [(1, 5)] with keys := 0x0020 } State.pc = some 0x0204 ∧
    see 0xE19E { regs [(1, 0x15)] with keys := 0xFFFF } State.pc = some 0x0202 := by decide
/-- V-KEY-4, V-KEY-6. -/
theorem test_skipKn : see 0xE1A1 { regs [(1, 5)] with keys := 0x0020 } State.pc = some 0x0202 ∧
    see 0xE1A1 { regs [(1, 0x15)] with keys := 0xFFFF } State.pc = some 0x0204 := by decide
/-- V-KEY-8. -/
theorem test_waitKey_none : see 0xF00A { regs [(0, 0x77)] with pc := 0x0204 }
    (fun t => (t.pc, t.getV 0, t.paused)) = some (0x0204, 0x77, false) := by decide
/-- V-KEY-11. -/
theorem test_waitKey : see 0xF00A { at' 0x0204 with keys := 0x1234 } (fun t => (t.pc, t.getV 0)) =
    some (0x0206, 0x34) := by decide
/-- V-TMR-1. -/
theorem test_movDelay : see 0xFA15 (regs [(10, 5)]) (fun t => (t.dt, t.st)) = some (5, 0) := by decide
/-- V-TMR-2. -/
theorem test_movSound : see 0xF318 (regs [(3, 0x1E)]) (fun t => (t.dt, t.st)) = some (0, 0x1E) := by decide
/-- V-TMR-3. -/
theorem test_movFromDelay : see 0xF107 { State.reset with dt := 4 } (fun t => (t.getV 1, t.dt)) =
    some (4, 4) := by decide
/-- V-TMR-6, V-TMR-7. -/
theorem test_timerTick :
    seeEvent .timerTick { State.reset with dt := 0xFF, st := 2 } (fun t => (t.dt, t.st)) = some (0xFE, 1) ∧
    seeEvent .timerTick { State.reset with st := 3 } (fun t => (t.dt, t.st)) = some (0, 2) := by decide
/-- V-KEY-12. -/
theorem test_keySet : seeEvent (.keySet 0) { State.reset with keys := 1 } State.keys = some 0 := by decide

/-- R186: the accessors, the keys among them. -/
theorem test_accessors : ({ State.reset with keys := 0x8001 }).keyState = 0x8001 ∧
    ({ State.reset with stack := [2, 4] }).stackContents = [4, 2] ∧
    ({ State.reset with cause := .pcOob }).haltCode = 2 := by decide

/-! ## Reset and ROM load (2.8) -/

/-- V-RST-1, its run control, keys and memory. -/
theorem test_reset_event :
    seeEvent .reset { poke (at' 0x020A) 0x1FF [1, 2] with paused := true, cause := .stackUnderflow, keys := 2 }
      (fun t => (t.pc, t.paused, t.cause, t.keys, peek 0x1FF 2 t)) =
        some (0x0200, false, .none, 0, [0, 0]) := by decide
/-- V-ROM-2. -/
theorem test_romLoad : seeEvent (.romLoad 0xFFE [0xAA, 0xBB, 0xCC]) State.reset
    (fun t => (peek 0xFFE 2 t, peek 0 1 t, t.pc)) = some ([0xAA, 0xBB], [0xF0], 0x0200) := by decide
/-- R33: `Run` is not enabled while paused. -/
theorem test_run_paused : step { State.reset with paused := true, inputs := [.run] } =
    .fault .eventNotEnabled := rfl
/-- R33: `SingleStep` is not enabled while running. -/
theorem test_singleStep_running : step { State.reset with inputs := [.singleStep] } =
    .fault .eventNotEnabled := rfl
/-- R58, R60: writing the reset contents lists nothing. -/
theorem test_memory_canonical : (poke (poke State.reset 0x300 [7]) 0x300 [0]).mem = [] := by decide
/-- U8: the mark stays when `Pause(0)` has cleared the cause. -/
theorem test_fault_is_sticky :
    (Watched.run 2 ⟨{ at' 0x0FFF with inputs := [.run, .pause false] }, false⟩).marked = true ∧
    (Watched.run 2 ⟨{ at' 0x0FFF with inputs := [.run, .pause false] }, false⟩).machine.cause = .none := by
  decide

/-! ## Witnesses: a state and operands that meet the hypotheses of each statement -/

/-- DecodeEncodeRoundTrip. -/
theorem test_witness_round_trip : decodeKind 0xFF65 = .instr (.memLoad 15) ∧
    (Instr.shl 15 0).wellFormed = true := by decide
/-- WordIsInstructionIffItsRowMatches. -/
theorem test_witness_row : (Instr.memLoad 15).row ∈ opcodeTable ∧
    (0xFF65 : Word) &&& (Instr.memLoad 15).row.mask = (Instr.memLoad 15).row.pattern := by decide
/-- UnknownWordsExactly, each of its four cases. -/
theorem test_witness_unknown :
    (opField 0x00E1 = 0x0 ∧ kkField 0x00E1 ∉ [0xE0, 0xEE]) ∧
    (opField 0x8ABF = 0x8 ∧ nField 0x8ABF ∈ [0x8, 0x9, 0xA, 0xB, 0xC, 0xD, 0xF]) ∧
    (opField 0xE19F = 0xE ∧ kkField 0xE19F ∉ [0x9E, 0xA1]) ∧
    (opField 0xF066 = 0xF ∧ kkField 0xF066 ∉ [0x07, 0x0A, 0x15, 0x18, 0x1E, 0x29, 0x33, 0x55, 0x65]) := by
  decide
/-- A state with the word 0x8124 where the last instruction can be fetched and applied. -/
def last : State := poke (at' 0xFFD) 0xFFD [0x81, 0x24]
/-- StepRunsTheDecodedInstruction, its clause on listed events: one of each kind. -/
theorem test_witness_listed : ∀ e ∈ [Event.run, .singleStep, .timerTick, .keySet 0xFFFF, .pause true,
    .reset, .romLoad 0xFFF [1]], { State.reset with inputs := [e] }.inputs = e :: [] := by decide
/-- StepRunsTheDecodedInstruction, its three clauses on cycles, and PlacedInstructionRunsNext. -/
theorem test_witness_step : last.pc.toNat ≤ 0xFFD ∧ decodeKind last.fetchWord = .instr (.addReg 1 2) ∧
    last.inputs = [] ∧ last.paused = false ∧
    decodeKind { last with inputs := [.run] }.fetchWord = .instr (.addReg 1 2) ∧
    decodeKind { last with inputs := [.singleStep], paused := true }.fetchWord = .instr (.addReg 1 2) := by
  decide
/-- UnknownWordOnlyAdvances, and the unknown clause of PcAfterACycle. -/
theorem test_witness_unknown_word : (at' 0xFFD).pc.toNat ≤ 0xFFD ∧
    decodeKind (at' 0xFFD).fetchWord = .unknown := by decide
/-- PlacedInstructionRunsNext at 0xFFD and past it, FetchGuardHalts, and the guards of HaltsExactly and
PcAfterACycle. -/
theorem test_witness_guards : (at' 0xFFD).pc.toNat ≤ 0xFFD ∧ (at' 0xFFE).pc.toNat > 0xFFD ∧
    (at' 0xFFF).pc.toNat > 0xFFE ∧ (at' 0xFFE).pc.toNat = 0xFFE := by decide
/-- EveryCycleCompletes. -/
theorem test_witness_no_draw : (∀ x kk, decodeKind last.fetchWord ≠ .instr (.rndmsk x kk)) ∧
    ∃ t, cycle last = .next t := by
  refine ⟨fun x kk h => ?_, _, rfl⟩
  have e : decodeKind last.fetchWord = .instr (.addReg 1 2) := by decide
  rw [e] at h; cases h
/-- CycleDoesNotReadRunControl. -/
theorem test_witness_run_control : SameButRunControl last { last with paused := true, cause := .pcOob } ∧
    ∃ t, cycle last = .next t := ⟨rfl, _, rfl⟩
/-- PcAfterACycle and HaltsExactly at the guards and at an instruction. -/
theorem test_witness_pc_after : (∃ t, cycle (at' 0xFFE) = .next t) ∧ (∃ t, cycle (at' 0xFFD) = .next t) ∧
    (∃ t, cycle last = .next t) := ⟨⟨_, rfl⟩, ⟨_, rfl⟩, ⟨_, rfl⟩⟩
/-- HaltsExactly: an empty stack at `RET`, a full one at `CALL`, and neither. -/
theorem test_witness_halts :
    (decodeKind (poke (at' 0xFFD) 0xFFD [0x00, 0xEE]).fetchWord = .instr (.ret 0) ∧
      (poke (at' 0xFFD) 0xFFD [0x00, 0xEE]).stack = []) ∧
    (decodeKind (poke { deep 16 with pc := 0xFFD } 0xFFD [0x24, 0x00]).fetchWord = .instr (.call 0x400) ∧
      (poke { deep 16 with pc := 0xFFD } 0xFFD [0x24, 0x00]).stack.length = 16) ∧
    (decodeKind (poke { deep 15 with pc := 0xFFD } 0xFFD [0x24, 0x00]).fetchWord = .instr (.call 0x400) ∧
      (poke { deep 15 with pc := 0xFFD } 0xFFD [0x24, 0x00]).stack.length < 16) := by decide
/-- FetchIsBigEndian, StoresAreFetched, RomLoadCopiesBytes and ResetEventLeaves: the last cell. -/
theorem test_witness_cells : (at' 0xFFE).pc.toNat ≤ 0xFFE ∧ 0xFFF < 4096 := by decide
/-- StepKeepsInv and the first clause of ResetMeetsInv. -/
theorem test_witness_inv : Invariant State.reset ∧ ∃ t, step State.reset = .next t :=
  ⟨⟨⟨List.Pairwise.nil, fun _ h => absurd h List.not_mem_nil⟩, by decide,
    fun _ h => absurd h List.not_mem_nil, by decide, by decide, by decide⟩, _, rfl⟩
/-- ResetMeetsInv: the greatest legal `FONT_BASE`. -/
theorem test_witness_cfg : Config.Cfg.wf { defaultCfg with fontBase := 0x1B0 } := by decide
/-- RunAndSingleStepByPaused, both ways, and SingleStepStaysPaused. -/
theorem test_witness_paused : State.reset.paused = false ∧ { State.reset with paused := true }.paused = true ∧
    { State.reset with paused := true }.inputs = [] ∧
    ∃ t, applyEvent .singleStep { State.reset with paused := true } = .next t := ⟨rfl, rfl, rfl, _, rfl⟩
/-- OnlyResetMovesAnOutOfRangePc. -/
theorem test_witness_out_of_range : (at' 0xFFF).pc.toNat > 0xFFE ∧ (at' 0xFFF).inputs.head? ≠ some .reset ∧
    ∃ t, step (at' 0xFFF) = .next t := ⟨by decide, by decide, _, rfl⟩
/-- EndedRunStays: the end loop `JUMP 0xFFD` of a machine at 0xFFD. -/
theorem test_witness_ended : ended (poke (at' 0xFFD) 0xFFD [0x1F, 0xFD]) = true ∧
    (poke (at' 0xFFD) 0xFFD [0x1F, 0xFD]).inputs = [] := by decide
/-- OnlyNamedInstructionsWrite, each of its six clauses. -/
theorem test_witness_writers :
    (∃ t, exec (.movI 1) State.reset = .next t ∧ t.i ≠ State.reset.i) ∧
    (∃ t, exec (.call 0) State.reset = .next t ∧ t.stack ≠ State.reset.stack) ∧
    (∃ t, exec (.movDelay 1) (regs [(1, 5)]) = .next t ∧ t.dt ≠ (regs [(1, 5)]).dt) ∧
    (∃ t, exec (.movSound 1) (regs [(1, 5)]) = .next t ∧ t.st ≠ (regs [(1, 5)]).st) ∧
    (∃ t, exec (.drw 0 0 1) State.reset = .next t ∧ t.disp ≠ State.reset.disp) ∧
    (∃ t, exec (.movBcd 1) State.reset = .next t ∧ ∃ a, t.byteAt a ≠ State.reset.byteAt a) :=
  ⟨⟨_, rfl, by decide⟩, ⟨_, rfl, by decide⟩, ⟨_, rfl, by decide⟩, ⟨_, rfl, by decide⟩,
    ⟨_, rfl, fun h => absurd (congrArg (dispCell · 0 0) h) (by decide)⟩, ⟨_, rfl, 0, by decide⟩⟩
/-- FlagChangesOnlyByNamedWriters: a flag, and the last register of a bulk load with the bound 15. -/
theorem test_witness_flag : ∃ t, exec (.addReg 1 2) (regs [(1, 0xFF), (2, 1)]) = .next t ∧
    t.getV 15 ≠ (regs [(1, 0xFF), (2, 1)]).getV 15 := ⟨_, rfl, by decide⟩
theorem test_witness_flag_load : ∃ t, exec (.memLoad 3) (regs [(3, 15)]) = .next t ∧
    t.getV 15 ≠ (regs [(3, 15)]).getV 15 ∧ ((regs [(3, 15)]).getV 3).toNat = 15 := ⟨_, rfl, by decide⟩
/-- DisplayIsNeverRead. -/
theorem test_witness_display :
    SameButDisp State.reset { State.reset with disp := Vector.replicate 32 (Vector.replicate 64 true) } ∧
    ∃ t, step State.reset = .next t := ⟨rfl, _, rfl⟩
/-- A state whose four open parameters are not those of the reset state, although every cell of memory reads
as it does there: its font is all zeros, one cell higher, and the default font's bytes are listed. -/
def otherParameters : State :=
  { State.reset with
    cfg := { fontBase := 0x001, fontData := Vector.replicate 80 0x00, addIDoubles := true, bulkByValue := false }
    mem := (List.range 80).zip defaultFont.toList }
/-- SettledInstructionsIgnoreOpenParameters: a pair of states in which all four parameters differ. -/
theorem test_witness_parameters : SameButParameters State.reset otherParameters ∧
    otherParameters.cfg.fontBase ≠ State.reset.cfg.fontBase ∧
    otherParameters.cfg.fontData ≠ State.reset.cfg.fontData ∧
    otherParameters.cfg.addIDoubles ≠ State.reset.cfg.addIDoubles ∧
    otherParameters.cfg.bulkByValue ≠ State.reset.cfg.bulkByValue := by
  refine ⟨⟨rfl, fun a _ => ?_⟩, by decide, fun e => ?_, by decide, by decide⟩
  · by_cases h : a < 81
    · have low : ∀ b, b < 81 → otherParameters.byteAt b = State.reset.byteAt b := by decide +kernel
      exact low a h
    · have listed : ∀ (m : Memory), (∀ e ∈ m, e.1 < 80) → memLookup m a = none := by
        intro m hm
        induction m with
        | nil => rfl
        | cons e m ih =>
          have he := hm e (by simp)
          rw [memLookup, if_neg (by omega)]
          exact ih fun e he => hm e (by simp [he])
      have hm : ∀ e ∈ otherParameters.mem, e.1 < 80 := fun e he =>
        List.mem_range.1 (List.of_mem_zip he).1
      have h1 : otherParameters.cfg.fontBase.toNat = 1 := rfl
      have h2 : State.reset.cfg.fontBase.toNat = 0 := rfl
      simp only [State.byteAt, memGet, listed _ hm, show State.reset.mem = [] from rfl, memLookup,
        Option.getD_none, resetByte]
      rw [dif_neg (by omega), dif_neg (by omega)]
  · exact absurd (congrArg (fun v : Vector Byte 80 => v.toList.head?) e) (by decide)
/-- SettledInstructionsIgnoreOpenParameters, for the instructions the parameters govern. -/
theorem test_witness_settled : settled (.addI 1) (regs [(1, 7)]) = true ∧
    settled (.fontI 1) (regs [(1, 16)]) = true ∧
    settled (.memStore 15) (regs [(15, 15)]) = true ∧
    settled (.memLoad 0) { State.reset with i := 0xFFF } = true ∧
    settled (.drw 1 2 3) (regs [(1, 64)]) = true := by decide
/-- What the source does not settle: a sprite on the screen (U20), `RET` on an empty stack (D14), a sum past
0xFFF (D34). -/
theorem test_not_settled : settled (.drw 1 2 3) (regs [(1, 63)]) = false ∧
    settledOutsideDisplay (.drw 1 2 3) (regs [(1, 63)]) = true ∧
    settled (.ret 0) (deep 0) = false ∧ settled (.jumpV0 0xFFF) (regs [(0, 1)]) = false := by decide
/-- RetPops: one entry, and none. -/
theorem test_witness_ret : (deep 1).stack = 0x0302 :: [] ∧ (deep 0).stack = [] := by decide
/-- CallPushes and RetBalancesCall: 15 entries and 16. -/
theorem test_witness_call : (deep 15).stack.length < 16 ∧ (deep 16).stack.length = 16 := by decide
/-- The words of the control transfer and immediate rows that their statements are about. -/
theorem test_witness_words_op : (0x1FFF : Word) &&& 0xF000 = 0x1000 ∧ (0x2FFF : Word) &&& 0xF000 = 0x2000 ∧
    (0x3FFF : Word) &&& 0xF000 = 0x3000 ∧ (0x4FFF : Word) &&& 0xF000 = 0x4000 ∧
    (0x5FFF : Word) &&& 0xF000 = 0x5000 ∧ (0x6FFF : Word) &&& 0xF000 = 0x6000 ∧
    (0x7FFF : Word) &&& 0xF000 = 0x7000 ∧ (0x9FFF : Word) &&& 0xF000 = 0x9000 ∧
    (0xAFFF : Word) &&& 0xF000 = 0xA000 ∧ (0xBFFF : Word) &&& 0xF000 = 0xB000 ∧
    (0xCFFF : Word) &&& 0xF000 = 0xC000 ∧ (0xDFFF : Word) &&& 0xF000 = 0xD000 := by decide
/-- The words of the register rows. -/
theorem test_witness_words_op8 : (0x8FF0 : Word) &&& 0xF00F = 0x8000 ∧ (0x8FF1 : Word) &&& 0xF00F = 0x8001 ∧
    (0x8FF2 : Word) &&& 0xF00F = 0x8002 ∧ (0x8FF3 : Word) &&& 0xF00F = 0x8003 ∧
    (0x8FF4 : Word) &&& 0xF00F = 0x8004 ∧ (0x8FF5 : Word) &&& 0xF00F = 0x8005 ∧
    (0x8FF6 : Word) &&& 0xF00F = 0x8006 ∧ (0x8FF7 : Word) &&& 0xF00F = 0x8007 ∧
    (0x8FFE : Word) &&& 0xF00F = 0x800E := by decide
/-- The words of the rows with `x` alone. -/
theorem test_witness_words_x : (0x0FE0 : Word) &&& 0xF0FF = 0x00E0 ∧ (0x0FEE : Word) &&& 0xF0FF = 0x00EE ∧
    (0xEF9E : Word) &&& 0xF0FF = 0xE09E ∧ (0xEFA1 : Word) &&& 0xF0FF = 0xE0A1 ∧
    (0xFF07 : Word) &&& 0xF0FF = 0xF007 ∧ (0xFF0A : Word) &&& 0xF0FF = 0xF00A ∧
    (0xFF15 : Word) &&& 0xF0FF = 0xF015 ∧ (0xFF18 : Word) &&& 0xF0FF = 0xF018 ∧
    (0xFF1E : Word) &&& 0xF0FF = 0xF01E ∧ (0xFF29 : Word) &&& 0xF0FF = 0xF029 ∧
    (0xFF33 : Word) &&& 0xF0FF = 0xF033 ∧ (0xFF55 : Word) &&& 0xF0FF = 0xF055 ∧
    (0xFF65 : Word) &&& 0xF0FF = 0xF065 := by decide
/-- AddRegistersWithCarry, SubtractWithNoBorrow, Shifts: a destination that is not VF. -/
theorem test_witness_not_vf : (14 : Reg) ≠ 15 := by decide
/-- RandomMasked: a mask bit that is 0. -/
theorem test_witness_mask_bit : (0x7F : Byte).getLsbD 7 = false := by decide
/-- BulkStore and BulkLoad: the bounds 15 and 16, and a register within the bound. -/
theorem test_witness_bulk :
    (15 = (if (regs [(3, 15)]).cfg.bulkByValue then ((regs [(3, 15)]).getV 3).toNat else (3 : Reg).toNat)) ∧
    (16 = (if (regs [(3, 16)]).cfg.bulkByValue then ((regs [(3, 16)]).getV 3).toNat else (3 : Reg).toNat)) ∧
    15 < 16 ∧ 16 ≤ 16 ∧ (15 : Reg).toNat ≤ 15 := by decide
/-- DrawSprite: the last row and column. -/
theorem test_witness_cell : 31 < 32 ∧ 63 < 64 := by decide
/-- WaitKey: no key, and the highest key. -/
theorem test_witness_keys : State.reset.keys = 0 ∧ { State.reset with keys := 0x8000 }.keys ≠ 0 := by decide

end Sys2Proof.Tests
end

/-! ## O34: the open parameters of 00_scope.md R6

Thirty instructions touch neither memory nor, where `parametersMatter` is false, the configuration: replacing
both goes through such an instruction unseen (`ParameterBlind`). The other four access memory; for them the
laws of `SameButParameters` say that every cell keeps reading alike, and the fold of a bulk move commutes with
a change of the two switches. -/

namespace Sys2Proof.Safety

open Sys2Proof.Machine

/-! ### Replacing the configuration and the list of cells -/

/-- The state with another configuration and another list of cells. -/
def withParameters (s : State) (c : Config.Cfg) (m : Memory) : State := { s with cfg := c, mem := m }

/-- The state with other values of the two switches, every cell listed as before. -/
def withSwitches (s : State) (d v : Bool) : State :=
  withParameters s { s.cfg with addIDoubles := d, bulkByValue := v } s.mem

theorem SameButParameters.getV {s s' : State} (h : SameButParameters s s') (x : Reg) :
    s'.getV x = s.getV x := by
  rw [h.eq]; rfl

/-- Where memory is the same on both sides of an update, so are the cells two states read alike. -/
theorem sameButParameters_withParameters {s t : State} {c : Config.Cfg} {m : Memory} (hcfg : t.cfg = s.cfg)
    (hmem : t.mem = s.mem) (h : SameButParameters s (withParameters s c m)) :
    SameButParameters t (withParameters t c m) := by
  refine ⟨rfl, fun a ha => ?_⟩
  rw [State.byteAt, State.byteAt, hcfg, hmem]
  exact h.2 a ha

@[simp] theorem skipIf_cfg (s : State) (b : Bool) : (s.skipIf b).cfg = s.cfg := by
  cases b <;> rfl

@[simp] theorem skipIf_mem (s : State) (b : Bool) : (s.skipIf b).mem = s.mem := by
  cases b <;> rfl

theorem skipIf_withParameters (s : State) (b : Bool) (c : Config.Cfg) (m : Memory) :
    (withParameters s c m).skipIf b = withParameters (s.skipIf b) c m := by
  cases b <;> rfl

/-- A change of the switches commutes with the bulk store (43_index_memory.md R134). -/
theorem storeRegs_withSwitches (s : State) (d v : Bool) (m : Nat) :
    (withSwitches s d v).storeRegs m = withSwitches (s.storeRegs m) d v :=
  List.foldl_hom (withSwitches · d v) fun _ _ => rfl

/-- A change of the switches commutes with the bulk load (R135). -/
theorem loadRegs_withSwitches (s : State) (d v : Bool) (m : Nat) :
    (withSwitches s d v).loadRegs m = withSwitches (s.loadRegs m) d v :=
  List.foldl_hom (withSwitches · d v) fun _ _ => rfl

/-! ### The governed instructions where no parameter matters -/

/-- With `I = 0` both readings of `ADD I,Vx` give `V[x]` (R131). -/
theorem execAddI_of_i_eq_zero {s : State} (h : s.i = 0) (x : Reg) :
    execAddI x s = .next (s.setI (trunc16 (s.getV x).toNat)) := by
  simp [execAddI, h]

/-- Where `V[x] = x` both readings of the bulk bound give `x` (R134). -/
theorem bulkBound_of_getV_eq {s : State} {x : Reg} (h : (s.getV x).toNat = x.toNat) : s.bulkBound x = x.toNat := by
  simp [State.bulkBound, h]

theorem execMemStore_of_getV_eq {s : State} {x : Reg} (h : (s.getV x).toNat = x.toNat) :
    execMemStore x s = .next (s.storeRegs x.toNat) := by
  simp only [execMemStore, bulkBound_of_getV_eq h, x.isLt, if_true]

theorem execMemLoad_of_getV_eq {s : State} {x : Reg} (h : (s.getV x).toNat = x.toNat) :
    execMemLoad x s = .next (s.loadRegs x.toNat) := by
  simp only [execMemLoad, bulkBound_of_getV_eq h, x.isLt, if_true]

theorem parametersMatter_of_settledOutsideDisplay {i : Instr} {s : State}
    (h : settledOutsideDisplay i s = true) : parametersMatter i s = false := by
  cases i with
  | addI x => simpa [settledOutsideDisplay, parametersMatter] using h
  | fontI x => simpa [settledOutsideDisplay, parametersMatter] using h
  | memStore x | memLoad x =>
    simp only [settledOutsideDisplay, Bool.and_eq_true, decide_eq_true_eq] at h
    simp [parametersMatter, h.1]
  | _ => rfl

/-! ### Instructions that see neither the configuration nor memory -/

theorem execRet_of_stack_nil {s : State} (h : s.stack = []) : execRet s = .next (s.raiseHalt .stackUnderflow) := by
  simp only [execRet, h]

theorem execRet_of_stack_cons {s : State} {w : Word} {ws : List Word} (h : s.stack = w :: ws) :
    execRet s = .next (s.dropTop.setPc w) := by
  simp only [execRet, h]

/-- `i` completes at `s`, keeps the configuration and memory, and does the same whatever they are. -/
def ParameterBlind (i : Instr) (s : State) : Prop :=
  ∃ t, exec i s = .next t ∧ t.cfg = s.cfg ∧ t.mem = s.mem ∧
    ∀ c m, exec i (withParameters s c m) = .next (withParameters t c m)

theorem parameterBlind_ret (x : Nibble) (s : State) : ParameterBlind (.ret x) s := by
  cases hs : s.stack with
  | nil =>
    exact ⟨_, execRet_of_stack_nil hs, rfl, rfl, fun c m => execRet_of_stack_nil (s := withParameters s c m) hs⟩
  | cons w ws =>
    exact ⟨_, execRet_of_stack_cons hs, rfl, rfl, fun c m => execRet_of_stack_cons (s := withParameters s c m) hs⟩

theorem parameterBlind_call (nnn : Addr12) (s : State) : ParameterBlind (.call nnn) s := by
  by_cases h : s.sp < Config.stackDepth
  · exact ⟨_, if_pos h, rfl, rfl, fun _ _ => if_pos h⟩
  · exact ⟨_, if_neg h, rfl, rfl, fun _ _ => if_neg h⟩

theorem parameterBlind_waitKey (x : Reg) (s : State) : ParameterBlind (.waitKey x) s := by
  by_cases h : s.keys = 0
  · exact ⟨_, congrArg Host.Outcome.next (if_pos h), rfl, rfl, fun _ _ => congrArg Host.Outcome.next (if_pos h)⟩
  · exact ⟨_, congrArg Host.Outcome.next (if_neg h), rfl, rfl, fun _ _ => congrArg Host.Outcome.next (if_neg h)⟩

theorem parameterBlind_addI {s : State} (h : s.i = 0) (x : Reg) : ParameterBlind (.addI x) s :=
  ⟨_, execAddI_of_i_eq_zero h x, rfl, rfl, fun c m => execAddI_of_i_eq_zero (s := withParameters s c m) h x⟩

theorem parameterBlind_fontI {s : State} {x : Reg} (h : ¬(s.getV x).toNat ≤ 15) : ParameterBlind (.fontI x) s :=
  ⟨_, congrArg Host.Outcome.next (if_neg h), rfl, rfl, fun _ _ => congrArg Host.Outcome.next (if_neg h)⟩

/-- Where no parameter matters, an instruction is blind to them or one of the four that access memory. -/
theorem parameterBlind_or_accesses_memory {i : Instr} {s : State} (h : parametersMatter i s = false) :
    ParameterBlind i s ∨ (∃ x y n, i = .drw x y n) ∨ (∃ x, i = .movBcd x) ∨
    (∃ x, i = .memStore x ∧ (s.getV x).toNat = x.toNat) ∨
    (∃ x, i = .memLoad x ∧ (s.getV x).toNat = x.toNat) := by
  cases i with
  | drw x y n => exact .inr (.inl ⟨x, y, n, rfl⟩)
  | movBcd x => exact .inr (.inr (.inl ⟨x, rfl⟩))
  | memStore x => exact .inr (.inr (.inr (.inl ⟨x, rfl, by simpa [parametersMatter] using h⟩)))
  | memLoad x => exact .inr (.inr (.inr (.inr ⟨x, rfl, by simpa [parametersMatter] using h⟩)))
  | addI x => exact .inl (parameterBlind_addI (by simpa [parametersMatter] using h) x)
  | fontI x => exact .inl (parameterBlind_fontI (by simpa [parametersMatter] using h))
  | ret x => exact .inl (parameterBlind_ret x s)
  | call nnn => exact .inl (parameterBlind_call nnn s)
  | waitKey x => exact .inl (parameterBlind_waitKey x s)
  | skipEImm | skipNeImm | skipEReg | skipNeReg | skipKy | skipKn =>
    exact .inl ⟨_, rfl, skipIf_cfg _ _, skipIf_mem _ _,
      fun c m => congrArg Host.Outcome.next (skipIf_withParameters s _ c m)⟩
  | cls | jump | movImm | addImm | movReg | orReg | andReg | xorReg | addReg | subReg | shr | subnReg | shl
  | movI | jumpV0 | rndmsk | movFromDelay | movDelay | movSound =>
    exact .inl ⟨_, rfl, rfl, rfl, fun _ _ => rfl⟩

/-! ### The two noninterference claims -/

/-- From states that read alike, an instruction no parameter matters to leads to states that read alike. -/
theorem exec_sameButParameters {i : Instr} {s s' : State} (hi : parametersMatter i s = false)
    (h : SameButParameters s s') :
    ∃ t t', exec i s = .next t ∧ exec i s' = .next t' ∧ SameButParameters t t' ∧
      t.cfg = s.cfg ∧ t'.cfg = s'.cfg := by
  rcases parameterBlind_or_accesses_memory hi with
    ⟨t, ht, hcfg, hmem, hblind⟩ | ⟨x, y, n, rfl⟩ | ⟨x, rfl⟩ | ⟨x, rfl, hx⟩ | ⟨x, rfl, hx⟩
  · have hs' : s' = withParameters s s'.cfg s'.mem := h.eq
    refine ⟨t, withParameters t s'.cfg s'.mem, ht, ?_, ?_, hcfg, rfl⟩
    · rw [hs']; exact hblind _ _
    · exact sameButParameters_withParameters hcfg hmem (hs' ▸ h)
  · refine ⟨_, _, rfl, rfl, ⟨?_, h.2⟩, rfl, rfl⟩
    rw [h.getV, h.getV, h.drawSprite, h.eq]; rfl
  · refine ⟨_, _, rfl, rfl, ?_, rfl, rfl⟩
    have hI : s'.i = s.i := by rw [h.eq]
    rw [h.getV, hI]
    exact ((h.memWrite _ _).memWrite _ _).memWrite _ _
  · refine ⟨_, _, execMemStore_of_getV_eq hx, execMemStore_of_getV_eq (by rw [h.getV, hx]),
      h.storeRegs _, ?_, ?_⟩ <;>
      rw [storeRegs_eq]
  · refine ⟨_, _, execMemLoad_of_getV_eq hx, execMemLoad_of_getV_eq (by rw [h.getV, hx]), h.loadRegs _, ?_, ?_⟩ <;>
      rw [loadRegs_eq]

/-- A change of the two switches alone goes through an instruction no parameter matters to. -/
theorem exec_withSwitches {i : Instr} {s : State} (hi : parametersMatter i s = false) (d v : Bool) :
    ∃ t, exec i s = .next t ∧ t.cfg = s.cfg ∧ exec i (withSwitches s d v) = .next (withSwitches t d v) := by
  rcases parameterBlind_or_accesses_memory hi with
    ⟨t, ht, hcfg, hmem, hblind⟩ | ⟨x, y, n, rfl⟩ | ⟨x, rfl⟩ | ⟨x, rfl, hx⟩ | ⟨x, rfl, hx⟩
  · exact ⟨t, ht, hcfg, by simp only [withSwitches, hblind, hcfg, hmem]⟩
  · exact ⟨_, rfl, rfl, rfl⟩
  · exact ⟨_, rfl, rfl, rfl⟩
  · refine ⟨_, execMemStore_of_getV_eq hx, by rw [storeRegs_eq], ?_⟩
    rw [← storeRegs_withSwitches]
    exact execMemStore_of_getV_eq (s := withSwitches s d v) hx
  · refine ⟨_, execMemLoad_of_getV_eq hx, by rw [loadRegs_eq], ?_⟩
    rw [← loadRegs_withSwitches]
    exact execMemLoad_of_getV_eq (s := withSwitches s d v) hx

/-- Settles O34, by the split into instructions blind to the parameters and the four that access memory. -/
theorem settledInstructionsIgnoreOpenParameters : Obligations.SettledInstructionsIgnoreOpenParameters := by
  refine ⟨fun i s s' hi h => exec_sameButParameters hi h, fun i s d v hi => ?_,
    fun i s h => parametersMatter_of_settledOutsideDisplay h, fun i s h => ?_⟩
  · obtain ⟨t, ht, hcfg, hswitched⟩ := exec_withSwitches hi d v
    exact ⟨t, ht, by simpa only [withSwitches, withParameters, hcfg] using hswitched⟩
  · obtain ⟨hsettled, -⟩ := Bool.and_eq_true_iff.mp h
    exact parametersMatter_of_settledOutsideDisplay hsettled

end Sys2Proof.Safety

/-! ## The machine state as a whole: O15, O20, O21, O23, O26, O27, O31, O32

What each instruction may change is said once, as a frame (`exec_frame`); where it leads is said by the next
`pc` (O15). The invariant of a run (O20) and the two rules on who writes what (O31, O32) follow from these
two. -/

namespace Sys2Proof.Safety

open Sys2Proof.Machine

/-! ### Frames of the named operations -/

section FrameRules

variable {f : Touched} {s t u : State}

theorem Frame.refl (f : Touched) (s : State) : Frame f s s := by
  simp [Frame]

theorem Frame.trans (h : Frame f s t) (h' : Frame f t u) : Frame f s u := by
  obtain ⟨hv, hi, hpc, hstack, hdt, hst, hdisp, hhalt, hdraws, hmem, hkeys, hcfg, hinputs⟩ := h
  obtain ⟨hv', hi', hpc', hstack', hdt', hst', hdisp', hhalt', hdraws', hmem', hkeys', hcfg', hinputs'⟩ := h'
  exact ⟨fun r hr => (hv' r hr).trans (hv r hr), fun e => (hi' e).trans (hi e),
    fun e => (hpc' e).trans (hpc e), fun e => (hstack' e).trans (hstack e),
    fun e => (hdt' e).trans (hdt e), fun e => (hst' e).trans (hst e),
    fun e => (hdisp' e).trans (hdisp e),
    fun e => ⟨(hhalt' e).1.trans (hhalt e).1, (hhalt' e).2.trans (hhalt e).2⟩,
    fun e => (hdraws' e).trans (hdraws e), fun a ha => (hmem' a ha).trans (hmem a ha),
    hkeys'.trans hkeys, hcfg'.trans hcfg, hinputs'.trans hinputs⟩

theorem Frame.pc_eq (h : Frame f s t) (hf : f.pc = false) : t.pc = s.pc := by
  obtain ⟨-, -, hpc, -⟩ := h
  exact hpc hf

theorem frame_setV {x : Reg} (hx : x ∈ f.regs) (b : Byte) : Frame f s (s.setV x b) := by
  have hv : ∀ r, r ∉ f.regs → (s.setV x b).getV r = s.getV r :=
    fun r hr => getV_setV_of_ne s b fun e => hr (e ▸ hx)
  simpa [Frame] using hv

theorem frame_memWrite {a : Nat} (ha : effAddr a ∈ f.cells) (b : Byte) : Frame f s (s.memWrite a b) := by
  have hm : ∀ p, p ∉ f.cells → (s.memWrite a b).byteAt p = s.byteAt p := fun p hp => by
    rw [byteAt_memWrite, if_neg fun e : effAddr a = p => hp (e ▸ ha)]
  simpa [Frame] using hm

theorem frame_setI (hf : f.i = true) (w : Word) : Frame f s (s.setI w) := by simp [Frame, hf]

theorem frame_setPc (hf : f.pc = true) (w : Word) : Frame f s (s.setPc w) := by simp [Frame, hf]

theorem frame_setDt (hf : f.dt = true) (b : Byte) : Frame f s (s.setDt b) := by simp [Frame, hf]

theorem frame_setSt (hf : f.st = true) (b : Byte) : Frame f s (s.setSt b) := by simp [Frame, hf]

theorem frame_setDisp (hf : f.disp = true) (d : Display) : Frame f s (s.setDisp d) := by simp [Frame, hf]

theorem frame_push (hf : f.stack = true) (w : Word) : Frame f s (s.push w) := by simp [Frame, hf]

theorem frame_dropTop (hf : f.stack = true) : Frame f s s.dropTop := by simp [Frame, hf]

theorem frame_consumeDraw (hf : f.draws = true) : Frame f s s.consumeDraw := by simp [Frame, hf]

theorem frame_raiseHalt (hf : f.halt = true) (c : Cause) : Frame f s (s.raiseHalt c) := by simp [Frame, hf]

theorem frame_writeFlagged {x : Reg} (hvf : vf ∈ f.regs) (hx : x ∈ f.regs) (flag result : Byte) :
    Frame f s (s.writeFlagged x flag result) :=
  (frame_setV hvf flag).trans (frame_setV hx result)

theorem frame_skipIf (hf : f.pc = true) (c : Bool) : Frame f s (s.skipIf c) := by
  rcases skipIf_cases s c with ⟨-, hc⟩ | ⟨-, hc⟩ <;> rw [hc]
  · exact frame_setPc hf _
  · exact Frame.refl f s

theorem frame_loadRegs {m : Nat} (hm : m < 16) (hf : ∀ r : Reg, r.toNat ≤ m → r ∈ f.regs) :
    Frame f s (s.loadRegs m) := by
  have hv : ∀ r, r ∉ f.regs → (s.loadRegs m).getV r = s.getV r := fun r hr => by
    rw [getV_loadRegs s hm, if_neg fun hle => hr (hf r hle)]
  rw [loadRegs_eq] at hv ⊢
  exact ⟨hv, by simp [State.byteAt]⟩

theorem frame_storeRegs {m : Nat} (hm : m < 16) (hf : ∀ k, k ≤ m → effAddr (s.i.toNat + k) ∈ f.cells) :
    Frame f s (s.storeRegs m) := by
  have hb : ∀ a, a ∉ f.cells → (s.storeRegs m).byteAt a = s.byteAt a :=
    fun a ha => (byteAt_storeRegs s hm).2 a fun k hk e => ha (e ▸ hf k hk)
  rw [storeRegs_eq] at hb ⊢
  exact ⟨by simp [State.getV], by simpa using hb⟩

end FrameRules

/-! ### What an instruction can do -/

/-- What an instruction may change at `s`. -/
def touches (i : Instr) (s : State) : Touched :=
  match i with
  | .cls _ | .drw _ _ _ => { disp := true }
  | .ret _ | .call _ => { pc := true, stack := true, halt := true }
  | .jump _ | .jumpV0 _ | .skipEImm _ _ | .skipNeImm _ _ | .skipEReg _ _ _ | .skipNeReg _ _ _ | .skipKy _
  | .skipKn _ => { pc := true }
  | .movImm x _ | .addImm x _ | .movReg x _ | .orReg x _ | .andReg x _ | .xorReg x _
  | .movFromDelay x => { regs := [x] }
  | .addReg x _ | .subReg x _ | .subnReg x _ | .shr x _ | .shl x _ => { regs := [vf, x] }
  | .rndmsk x _ => { regs := [x], draws := true }
  | .waitKey x => { regs := [x], pc := true }
  | .movI _ | .addI _ | .fontI _ => { i := true }
  | .movDelay _ => { dt := true }
  | .movSound _ => { st := true }
  | .movBcd _ => { cells := cellsFrom s.i.toNat 3 }
  | .memStore x => { cells := cellsFrom s.i.toNat (s.bulkBound x + 1) }
  | .memLoad x =>
    { regs := if s.bulkBound x < 16 then (List.range (s.bulkBound x + 1)).map (BitVec.ofNat 4) else [] }

theorem effAddr_mem_cellsFrom {addr count k : Nat} (hk : k < count) :
    effAddr (addr + k) ∈ cellsFrom addr count :=
  List.mem_map.mpr ⟨k, List.mem_range.mpr hk, rfl⟩

theorem mem_map_ofNat_of_toNat_le {r : Reg} {m : Nat} (h : r.toNat ≤ m) :
    r ∈ (List.range (m + 1)).map (BitVec.ofNat 4) :=
  List.mem_map.mpr ⟨r.toNat, List.mem_range.mpr (by omega), by simp⟩

/-- `RET` pops or halts (41_flow.md R100). -/
theorem execRet_cases (s : State) :
    (∃ w ws, s.stack = w :: ws ∧ execRet s = .next (s.dropTop.setPc w)) ∨
    (s.stack = [] ∧ execRet s = .next (s.raiseHalt .stackUnderflow)) := by
  cases hs : s.stack with
  | nil => exact .inr ⟨rfl, execRet_of_stack_nil hs⟩
  | cons w ws => exact .inl ⟨w, ws, rfl, execRet_of_stack_cons hs⟩

/-- `CALL` pushes and jumps, or halts (R102). -/
theorem execCall_cases (nnn : Addr12) (s : State) :
    (s.stack.length < 16 ∧ execCall nnn s = .next ((s.push s.pc).setPc (zextAddr nnn))) ∨
    (16 ≤ s.stack.length ∧ execCall nnn s = .next (s.raiseHalt .stackOverflow)) := by
  by_cases h : s.stack.length < 16
  · exact .inl ⟨h, if_pos h⟩
  · exact .inr ⟨by omega, if_neg h⟩

/-- `WAITKEY` waits at its own address or writes its register (45_keys_timers.md R153). -/
theorem execWaitKey_cases (x : Reg) (s : State) :
    (s.keys = 0 ∧ execWaitKey x s = .next (s.setPc (s.pc - 2))) ∨
    (s.keys ≠ 0 ∧ execWaitKey x s = .next (s.setV x (s.keys.extractLsb' 0 8))) := by
  by_cases h : s.keys = 0
  · exact .inl ⟨h, congrArg Host.Outcome.next (if_pos h)⟩
  · exact .inr ⟨h, congrArg Host.Outcome.next (if_neg h)⟩

/-- An instruction that completes changes nothing outside what `touches` names. -/
theorem exec_frame {i : Instr} {s t : State} (h : exec i s = .next t) : Frame (touches i s) s t := by
  cases i with
  | cls | drw => cases h; exact frame_setDisp rfl _
  | ret x =>
    rcases execRet_cases s with ⟨w, ws, -, hr⟩ | ⟨-, hr⟩ <;> cases hr.symm.trans h
    · exact (frame_dropTop rfl).trans (frame_setPc rfl _)
    · exact frame_raiseHalt rfl _
  | call nnn =>
    rcases execCall_cases nnn s with ⟨-, hr⟩ | ⟨-, hr⟩ <;> cases hr.symm.trans h
    · exact (frame_push rfl _).trans (frame_setPc rfl _)
    · exact frame_raiseHalt rfl _
  | jump | jumpV0 => cases h; exact frame_setPc rfl _
  | skipEImm | skipNeImm | skipEReg | skipNeReg | skipKy | skipKn => cases h; exact frame_skipIf rfl _
  | movImm | addImm | movReg | orReg | andReg | xorReg | movFromDelay =>
    cases h; exact frame_setV (by simp [touches]) _
  | addReg | subReg | subnReg | shr | shl =>
    cases h; exact frame_writeFlagged (by simp [touches]) (by simp [touches]) _ _
  | rndmsk =>
    cases h; exact (frame_consumeDraw rfl).trans (frame_setV (by simp [touches]) _)
  | waitKey =>
    cases h
    split
    · exact frame_setPc rfl _
    · exact frame_setV (by simp [touches]) _
  | movI | addI => cases h; exact frame_setI rfl _
  | fontI =>
    cases h
    split
    · exact frame_setI rfl _
    · exact Frame.refl _ s
  | movDelay => cases h; exact frame_setDt rfl _
  | movSound => cases h; exact frame_setSt rfl _
  | movBcd x =>
    cases h
    have hcell : ∀ k, k < 3 → effAddr (s.i.toNat + k) ∈ (touches (.movBcd x) s).cells :=
      fun k hk => effAddr_mem_cellsFrom hk
    exact ((frame_memWrite (hcell 0 (by decide)) _).trans (frame_memWrite (hcell 1 (by decide)) _)).trans
      (frame_memWrite (hcell 2 (by decide)) _)
  | memStore x =>
    cases h
    split
    · next hm => exact frame_storeRegs hm fun k hk => effAddr_mem_cellsFrom (by omega)
    · exact Frame.refl _ s
  | memLoad x =>
    cases h
    split
    · next hm =>
      refine frame_loadRegs hm fun r hr => ?_
      simp only [touches, if_pos hm]
      exact mem_map_ofNat_of_toNat_le hr
    · exact Frame.refl _ s

/-- An instruction that completes keeps the memory's canonical form: it stores by `MemWrite` alone. -/
theorem exec_mem_wf {i : Instr} {s t : State} (hwf : s.mem.wf s.cfg) (h : exec i s = .next t) :
    t.mem.wf t.cfg := by
  cases i with
  | movBcd => cases h; exact memWrite_wf (memWrite_wf (memWrite_wf hwf _ _) _ _) _ _
  | memStore =>
    cases h
    split
    · exact storeRegs_wf hwf _
    · exact hwf
  | memLoad =>
    cases h
    split
    · rw [loadRegs_eq]; exact hwf
    · exact hwf
  | ret => rcases execRet_cases s with ⟨w, ws, -, hr⟩ | ⟨-, hr⟩ <;> cases hr.symm.trans h <;> exact hwf
  | call nnn => rcases execCall_cases nnn s with ⟨-, hr⟩ | ⟨-, hr⟩ <;> cases hr.symm.trans h <;> exact hwf
  | waitKey | fontI => cases h; split <;> exact hwf
  | skipEImm | skipNeImm | skipEReg | skipNeReg | skipKy | skipKn =>
    cases h; rw [skipIf_mem, skipIf_cfg]; exact hwf
  | cls | drw | jump | jumpV0 | movImm | addImm | movReg | orReg | andReg | xorReg | addReg | subReg | subnReg
  | shr | shl | rndmsk | movFromDelay | movI | addI | movDelay | movSound => cases h; exact hwf

/-! ### The next `pc` -/

theorem cycle_of_pc_eq {s : State} (hpc : s.pc.toNat = 0xFFE) :
    cycle s = .next (s.advance.raiseHalt .pcOob) := by
  rcases cycle_cases s with ⟨hgt, -⟩ | ⟨-, hc⟩ | ⟨_, hle, -⟩ | ⟨hle, -⟩
  · omega
  · exact hc
  · omega
  · omega

theorem cycle_of_unknown {s : State} (hpc : s.pc.toNat ≤ 0xFFD) (hk : decodeKind s.fetchWord = .unknown) :
    cycle s = .next s.advance := by
  rcases cycle_cases s with ⟨hgt, -⟩ | ⟨heq, -⟩ | ⟨_, -, hi, -⟩ | ⟨-, -, hc⟩
  · omega
  · omega
  · cases hk.symm.trans hi
  · exact hc

theorem cycle_of_instr {s : State} {i : Instr} (hpc : s.pc.toNat ≤ 0xFFD)
    (hi : decodeKind s.fetchWord = .instr i) : cycle s = exec i s.advance := by
  rcases cycle_cases s with ⟨hgt, -⟩ | ⟨heq, -⟩ | ⟨_, -, hj, hc⟩ | ⟨-, hk, -⟩
  · omega
  · omega
  · cases hi.symm.trans hj; exact hc
  · cases hi.symm.trans hk

theorem zextAddr_toNat (nnn : Addr12) : (zextAddr nnn).toNat = nnn.toNat := by
  simp only [zextAddr, BitVec.zeroExtend, BitVec.toNat_setWidth]
  omega

/-- The sum of `JUMP V0,nnn` does not wrap (41_flow.md R107). -/
theorem jumpV0_target_toNat (nnn : Addr12) (b : Byte) :
    (zextAddr nnn + zextByte b).toNat = nnn.toNat + b.toNat := by
  have hb : (zextByte b).toNat = b.toNat := by
    simp only [zextByte, BitVec.zeroExtend, BitVec.toNat_setWidth]; omega
  rw [BitVec.toNat_add, zextAddr_toNat, hb]
  omega

/-- A key number past 15 reads 0 as the missing bit of `KEYS` does (45_keys_timers.md R150). -/
theorem keyDown_eq_getLsbD (s : State) (k : Nat) : s.keyDown k = s.keys.getLsbD k := by
  by_cases hk : k ≤ 15
  · simp [State.keyDown, hk]
  · simp [State.keyDown, hk, BitVec.getLsbD_of_ge s.keys k (by omega)]

/-- `pc` after a skip of the cycle that fetched at `s.pc` (R103). -/
theorem skipIf_advance_pc_toNat {s : State} (hpc : s.pc.toNat ≤ 0xFFD) (c : Bool) :
    (s.advance.skipIf c).pc.toNat = if c = true then s.pc.toNat + 4 else s.pc.toNat + 2 := by
  have hadv : s.advance.pc.toNat = s.pc.toNat + 2 := advance_pc_toNat (by omega)
  rcases skipIf_cases s.advance c with ⟨rfl, hc⟩ | ⟨rfl, hc⟩ <;> rw [hc]
  · simp only [State.setPc_pc, BitVec.toNat_add, hadv, BitVec.reduceToNat, if_true]; omega
  · exact hadv

/-- Settles O15, by the instruction: the frame says that all but eleven keep the advanced `pc`. -/
theorem pcAfterACycle : Obligations.PcAfterACycle := by
  intro s t hcycle
  refine ⟨fun hpc => ?_, fun hpc hk => ?_, fun i hpc hi => ?_⟩
  · cases (cycle_of_pc_eq hpc).symm.trans hcycle
    rw [State.raiseHalt_pc, advance_pc_toNat (by omega), hpc]
  · cases (cycle_of_unknown hpc hk).symm.trans hcycle
    exact advance_pc_toNat (by omega)
  · have h : exec i s.advance = .next t := (cycle_of_instr hpc hi).symm.trans hcycle
    have hadv : s.advance.pc.toNat = s.pc.toNat + 2 := advance_pc_toNat (by omega)
    cases i with
    | jump nnn => cases h; exact zextAddr_toNat nnn
    | jumpV0 nnn => cases h; exact jumpV0_target_toNat nnn _
    | call nnn =>
      rcases execCall_cases nnn s.advance with ⟨hlt, hc⟩ | ⟨hge, hc⟩ <;> cases hc.symm.trans h
      · rw [State.advance_stack] at hlt
        simpa [hlt] using zextAddr_toNat nnn
      · rw [State.advance_stack] at hge
        simpa [show ¬ s.stack.length < 16 by omega] using hadv
    | ret x =>
      rcases execRet_cases s.advance with ⟨w, ws, hs, hr⟩ | ⟨hs, hr⟩ <;> cases hr.symm.trans h <;>
        rw [State.advance_stack] at hs <;> simp [hs]
    | skipEImm | skipNeImm | skipEReg | skipNeReg =>
      cases h
      simp [skipIf_advance_pc_toNat hpc]
    | skipKy =>
      cases h
      simp [skipIf_advance_pc_toNat hpc, keyDown_eq_getLsbD]
    | skipKn x =>
      cases h
      cases hkey : s.keys.getLsbD (s.getV x).toNat <;>
        simp [skipIf_advance_pc_toNat hpc, keyDown_eq_getLsbD, hkey]
    | waitKey x =>
      rcases execWaitKey_cases x s.advance with ⟨hkeys, hw⟩ | ⟨hkeys, hw⟩ <;> cases hw.symm.trans h <;>
        rw [State.advance_keys] at hkeys
      · simp only [if_pos hkeys, State.setPc_pc, State.advance_pc, BitVec.add_sub_cancel]
      · simp only [if_neg hkeys, State.setV_pc, hadv]
    | _ => rw [(exec_frame h).pc_eq rfl]; exact hadv

/-! ### The invariant -/

theorem resetWith_invariant {c : Config.Cfg} (hc : c.wf) : Invariant (State.resetWith c) := by
  refine ⟨resetWith_mem_wf c, Nat.zero_le _, fun w hw => ?_, ?_, fun hcause => ?_, hc⟩
  · cases hw
  · change resetPc.toNat ≤ 0x10FE
    decide
  · exact absurd rfl hcause

section Invariant

variable {s t : State}

/-- What stays within a frame that excludes the stack and the halt keeps the invariant, if memory and `pc`
do. -/
theorem Invariant.of_frame {f : Touched} (h : Invariant s) (hf : Frame f s t) (hstack : f.stack = false)
    (hhalt : f.halt = false) (hmem : t.mem.wf t.cfg) (hpc : t.pc.toNat ≤ 0x10FE) : Invariant t := by
  obtain ⟨-, hdepth, hentries, -, hcause, hcfg⟩ := h
  obtain ⟨-, -, -, hs, -, -, -, hh, -, -, -, hc, -⟩ := hf
  obtain ⟨hp, hca⟩ := hh hhalt
  refine ⟨hmem, ?_, ?_, hpc, ?_, ?_⟩
  · rwa [hs hstack]
  · rwa [hs hstack]
  · rwa [hp, hca]
  · rwa [hc]

theorem Invariant.raiseHalt (h : Invariant s) (c : Cause) : Invariant (s.raiseHalt c) := by
  obtain ⟨hmem, hdepth, hentries, hpc, -, hcfg⟩ := h
  exact ⟨hmem, hdepth, hentries, hpc, fun _ => rfl, hcfg⟩

theorem Invariant.setPc (h : Invariant s) {w : Word} (hw : w.toNat ≤ 0x10FE) : Invariant (s.setPc w) := by
  obtain ⟨hmem, hdepth, hentries, -, hcause, hcfg⟩ := h
  exact ⟨hmem, hdepth, hentries, hw, hcause, hcfg⟩

theorem Invariant.push (h : Invariant s) (hdepth : s.stack.length < 16) {w : Word} (hlo : 0x0002 ≤ w.toNat)
    (hhi : w.toNat ≤ 0x0FFF) : Invariant (s.push w) := by
  obtain ⟨hmem, -, hentries, hpc, hcause, hcfg⟩ := h
  exact ⟨hmem, hdepth, List.forall_mem_cons.mpr ⟨⟨hlo, hhi⟩, hentries⟩, hpc, hcause, hcfg⟩

theorem Invariant.dropTop (h : Invariant s) : Invariant s.dropTop := by
  obtain ⟨hmem, hdepth, hentries, hpc, hcause, hcfg⟩ := h
  have htail : s.stack.tail.length ≤ s.stack.length := s.stack.tail_sublist.length_le
  exact ⟨hmem, htail.trans hdepth, fun w hw => hentries w (List.mem_of_mem_tail hw), hpc, hcause, hcfg⟩

theorem Invariant.setPause (h : Invariant s) (b : Bool) : Invariant (s.setPause b) := by
  obtain ⟨hmem, hdepth, hentries, hpc, -, hcfg⟩ := h
  cases b
  · exact ⟨hmem, hdepth, hentries, hpc, fun hcause => absurd rfl hcause, hcfg⟩
  · exact ⟨hmem, hdepth, hentries, hpc, fun _ => rfl, hcfg⟩

theorem Invariant.romLoad (h : Invariant s) (base : Nat) (bytes : List Byte) :
    Invariant (s.romLoad base bytes) := by
  obtain ⟨hmem, hrest⟩ := h
  have hwf := romLoad_wf hmem base bytes
  rw [romLoad_eq] at hwf ⊢
  exact ⟨hwf, hrest⟩

/-- The greatest `pc` a cycle leads to is the greatest sum of `JUMP V0,nnn` (10_state.md R24). -/
theorem pc_le_of_exec_advance {i : Instr} (h : Invariant s) (hpc : s.pc.toNat ≤ 0xFFD)
    (hi : decodeKind s.fetchWord = .instr i) (ht : exec i s.advance = .next t) : t.pc.toNat ≤ 0x10FE := by
  obtain ⟨-, -, hnext⟩ := pcAfterACycle s t ((cycle_of_instr hpc hi).trans ht)
  have heq := hnext i hpc hi
  cases i with
  | ret x =>
    rcases execRet_cases s.advance with ⟨w, ws, hs, hr⟩ | ⟨-, hr⟩ <;> cases hr.symm.trans ht
    · obtain ⟨-, -, hentries, -⟩ := h
      have hw := hentries w (by rw [← State.advance_stack, hs]; exact List.mem_cons_self)
      rw [State.setPc_pc]
      omega
    · rw [State.raiseHalt_pc, advance_pc_toNat (by omega)]
      omega
  | jump nnn | jumpV0 nnn => dsimp only at heq; omega
  | call | skipEImm | skipNeImm | skipEReg | skipNeReg | skipKy | skipKn | waitKey =>
    dsimp only at heq; split at heq <;> omega
  | _ => dsimp only at heq; omega

/-- An instruction keeps the invariant where `pc` may be pushed, if the next `pc` is in range. -/
theorem exec_invariant {i : Instr} (h : Invariant s) (hlo : 0x0002 ≤ s.pc.toNat) (hhi : s.pc.toNat ≤ 0x0FFF)
    (ht : exec i s = .next t) (hpc : t.pc.toNat ≤ 0x10FE) : Invariant t := by
  have ⟨hwf, _⟩ := h
  have hmem : t.mem.wf t.cfg := exec_mem_wf hwf ht
  cases i with
  | ret =>
    rcases execRet_cases s with ⟨w, ws, -, hr⟩ | ⟨-, hr⟩ <;> cases hr.symm.trans ht
    · exact h.dropTop.setPc hpc
    · exact h.raiseHalt _
  | call nnn =>
    rcases execCall_cases nnn s with ⟨hdepth, hc⟩ | ⟨-, hc⟩ <;> cases hc.symm.trans ht
    · exact (h.push hdepth hlo hhi).setPc hpc
    · exact h.raiseHalt _
  | _ => exact h.of_frame (exec_frame ht) rfl rfl hmem hpc

theorem cycle_invariant (h : Invariant s) (ht : cycle s = .next t) : Invariant t := by
  have hadvance : s.pc.toNat ≤ 0xFFE → Invariant s.advance := fun hpc =>
    h.setPc (by have := advance_pc_toNat hpc; rw [State.advance_pc] at this; omega)
  rcases cycle_cases s with ⟨-, hc⟩ | ⟨hpc, hc⟩ | ⟨i, hpc, hi, hc⟩ | ⟨hpc, -, hc⟩
  · cases hc.symm.trans ht; exact h.raiseHalt _
  · cases hc.symm.trans ht; exact (hadvance (by omega)).raiseHalt _
  · have hexec : exec i s.advance = .next t := hc.symm.trans ht
    have hadv : s.advance.pc.toNat = s.pc.toNat + 2 := advance_pc_toNat (by omega)
    exact exec_invariant (hadvance (by omega)) (by omega) (by omega) hexec (pc_le_of_exec_advance h hpc hi hexec)
  · cases hc.symm.trans ht; exact hadvance (by omega)

theorem applyEvent_invariant {e : Event} (h : Invariant s) (ht : applyEvent e s = .next t) : Invariant t := by
  rcases applyEvent_cases ht with
    ⟨hc, -⟩ | ⟨-, rfl⟩ | ⟨k, -, rfl⟩ | ⟨b, -, rfl⟩ | ⟨-, rfl⟩ | ⟨base, bytes, -, rfl⟩
  · exact cycle_invariant h hc
  · exact h
  · exact h
  · exact h.setPause b
  · obtain ⟨-, -, -, -, -, hcfg⟩ := h
    exact resetWith_invariant hcfg
  · exact h.romLoad base bytes

end Invariant

/-- Settles O20, by the way the step goes: a listed event, the driver's cycle, or nothing. -/
theorem stepKeepsInv : Obligations.StepKeepsInv := by
  intro s t h ht
  rcases step_cases s with ⟨e, es, -, hs⟩ | ⟨-, -, hs⟩ | ⟨-, -, hs⟩
  · have hlisted : Invariant { s with inputs := es } := h
    exact applyEvent_invariant hlisted (hs.symm.trans ht)
  · exact cycle_invariant h (hs.symm.trans ht)
  · cases hs.symm.trans ht; exact h

/-- Settles O21: the reset state meets the invariant at every configuration that obeys R6. -/
theorem resetMeetsInv : Obligations.ResetMeetsInv :=
  ⟨resetWith_invariant (by decide), fun _ hc => resetWith_invariant hc⟩

/-! ### Who writes what -/

section Writers

variable {i : Instr} {s t : State}

theorem writer_of_touches_i (h : (touches i s).i = true) :
    ∃ nnn x, i = .movI nnn ∨ i = .addI x ∨ i = .fontI x := by
  cases i with
  | movI nnn => exact ⟨nnn, 0, .inl rfl⟩
  | addI x => exact ⟨0, x, .inr (.inl rfl)⟩
  | fontI x => exact ⟨0, x, .inr (.inr rfl)⟩
  | _ => cases h

theorem writer_of_touches_stack (h : (touches i s).stack = true) :
    ∃ nnn x, i = .call nnn ∨ i = .ret x := by
  cases i with
  | call nnn => exact ⟨nnn, 0, .inl rfl⟩
  | ret x => exact ⟨0, x, .inr rfl⟩
  | _ => cases h

theorem writer_of_touches_dt (h : (touches i s).dt = true) : ∃ x, i = .movDelay x := by
  cases i with
  | movDelay x => exact ⟨x, rfl⟩
  | _ => cases h

theorem writer_of_touches_st (h : (touches i s).st = true) : ∃ x, i = .movSound x := by
  cases i with
  | movSound x => exact ⟨x, rfl⟩
  | _ => cases h

theorem writer_of_touches_disp (h : (touches i s).disp = true) :
    ∃ x y n, i = .cls x ∨ i = .drw x y n := by
  cases i with
  | cls x => exact ⟨x, 0, 0, .inl rfl⟩
  | drw x y n => exact ⟨x, y, n, .inr rfl⟩
  | _ => cases h

theorem writer_of_mem_touches_cells {a : Nat} (h : a ∈ (touches i s).cells) :
    ∃ x, i = .movBcd x ∨ i = .memStore x := by
  cases i with
  | movBcd x => exact ⟨x, .inl rfl⟩
  | memStore x => exact ⟨x, .inr rfl⟩
  | _ => cases h

/-- A bulk load reaches VF only with the bound 15 (43_index_memory.md R135). -/
theorem bulkBound_of_vf_mem_touches {x : Reg} (h : vf ∈ (touches (.memLoad x) s).regs) :
    15 = s.bulkBound x := by
  simp only [touches] at h
  split at h
  · next hm =>
    obtain ⟨k, hk, hvf⟩ := List.mem_map.mp h
    have hkvf : k % 16 = 15 := congrArg BitVec.toNat hvf
    have hlt := List.mem_range.mp hk
    omega
  · cases h

theorem writer_of_vf_mem_touches_regs (h : vf ∈ (touches i s).regs) :
    (∃ kk, i = .movImm 15 kk ∨ i = .addImm 15 kk ∨ i = .rndmsk 15 kk) ∨
    (∃ y, i = .movReg 15 y ∨ i = .orReg 15 y ∨ i = .andReg 15 y ∨ i = .xorReg 15 y) ∨
    (i = .movFromDelay 15 ∨ i = .waitKey 15) ∨
    (∃ x, i = .memLoad x ∧ 15 = s.bulkBound x) ∨
    (∃ x y, i = .addReg x y ∨ i = .subReg x y ∨ i = .subnReg x y ∨ i = .shr x y ∨ i = .shl x y) := by
  cases i with
  | movImm x kk | addImm x kk | rndmsk x kk =>
    obtain rfl := List.mem_singleton.mp h; exact .inl ⟨kk, by simp⟩
  | movReg x y | orReg x y | andReg x y | xorReg x y =>
    obtain rfl := List.mem_singleton.mp h; exact .inr (.inl ⟨y, by simp⟩)
  | movFromDelay | waitKey => obtain rfl := List.mem_singleton.mp h; exact .inr (.inr (.inl (by simp)))
  | memLoad x => exact .inr (.inr (.inr (.inl ⟨x, rfl, bulkBound_of_vf_mem_touches h⟩)))
  | addReg x y | subReg x y | subnReg x y | shr x y | shl x y =>
    exact .inr (.inr (.inr (.inr ⟨x, y, by simp⟩)))
  | _ => cases h

/-- A flag-writing instruction leaves 0 or 1 in VF where VF is not its destination (42_alu.md R110). -/
theorem getV_vf_writeFlagged {x : Reg} (hx : x ≠ 15) (c : Bool) (result : Byte) :
    (s.writeFlagged x (flagByte c) result).getV 15 = 0 ∨ (s.writeFlagged x (flagByte c) result).getV 15 = 1 := by
  rw [getV_writeFlagged, if_neg hx.symm, if_pos rfl]
  exact flagByte_eq_zero_or_one c

end Writers

/-- Settles O31, by what the frame of the instruction lets change. -/
theorem onlyNamedInstructionsWrite : Obligations.OnlyNamedInstructionsWrite := by
  intro i s t h
  obtain ⟨-, hi, -, hstack, hdt, hst, hdisp, -, -, hmem, hkeys, hcfg, hinputs⟩ := exec_frame h
  exact ⟨fun hne => writer_of_touches_i (Bool.of_not_eq_false (mt hi hne)),
    fun hne => writer_of_touches_stack (Bool.of_not_eq_false (mt hstack hne)),
    fun hne => writer_of_touches_dt (Bool.of_not_eq_false (mt hdt hne)),
    fun hne => writer_of_touches_st (Bool.of_not_eq_false (mt hst hne)),
    fun hne => writer_of_touches_disp (Bool.of_not_eq_false (mt hdisp hne)),
    fun ⟨a, hne⟩ => writer_of_mem_touches_cells (not_not.mp (mt (hmem a) hne)),
    hkeys, hcfg, hinputs⟩

/-- Settles O32: by the frame for who may write VF, by the two writes of R110 for what the flag is. -/
theorem flagChangesOnlyByNamedWriters : Obligations.FlagChangesOnlyByNamedWriters := by
  refine ⟨fun i s t h hne => ?_, fun i s x y hx hi => ?_⟩
  · obtain ⟨hregs, -⟩ := exec_frame h
    exact writer_of_vf_mem_touches_regs (not_not.mp (mt (hregs 15) hne))
  · rcases hi with rfl | rfl | rfl | rfl | rfl <;> exact ⟨_, rfl, getV_vf_writeFlagged hx _ _⟩

/-! ### The machine right after reset, and run control -/

/-- No cell is listed after reset, so the first word is 0x0000, which is UNKNOWN (30_encoding.md R77). -/
theorem cycle_reset : cycle State.reset = .next { State.reset with pc := 0x0202 } :=
  cycle_of_unknown (by decide) (by decide)

/-- Settles O23, by evaluating the reset state and its first cycle. -/
theorem resetState : Obligations.ResetState := by
  have hregs : ∀ r, State.reset.getV r = 0x00 := by decide
  have hglyph0 : (List.range 5).map State.reset.byteAt = [0xF0, 0x90, 0x90, 0x90, 0xF0] := by decide
  have hglyphF : (List.range 6).map (fun k => State.reset.byteAt (0x04B + k)) =
      [0xF0, 0x80, 0xF0, 0x80, 0x80, 0x00] := by decide
  exact ⟨rfl, rfl, rfl, rfl, rfl, rfl, hregs, hglyph0, hglyphF, rfl, cycle_reset⟩

/-- Settles O26, by unfolding the event. -/
theorem pauseAndResume : Obligations.PauseAndResume := fun _ => ⟨rfl, rfl⟩

/-- Settles O27, by the gate of each event and the way a step goes. -/
theorem runAndSingleStepByPaused : Obligations.RunAndSingleStepByPaused := by
  intro s
  refine ⟨fun hp => ?_, fun hp => ?_, fun hp hnone => ?_⟩
  · simp [applyEvent, hp]
  · simp [applyEvent, hp]
  · rcases step_cases s with ⟨e, es, hs, -⟩ | ⟨-, hrun, -⟩ | ⟨-, -, hstep⟩
    · cases hnone.symm.trans hs
    · cases hp.symm.trans hrun
    · exact hstep

end Sys2Proof.Safety

/-! ## Memory: O10, O17, O18, O19

A `MemWrite` is one cell, the effective address (20_memory.md R51). A fetch from 0xFFE or below reads two cells
that are their own effective addresses, and a ROM load is one such write for each byte it keeps. -/

namespace Sys2Proof.Safety

open Sys2Proof.Machine

/-! ### Cells and effective addresses -/

/-- An address of one of the 4096 cells is its own effective address (20_memory.md R51). -/
theorem effAddr_of_lt {a : Nat} (h : a < 4096) : effAddr a = a := Nat.mod_eq_of_lt h

/-- `byteAt_memWrite` for addresses that need no reduction. -/
theorem byteAt_memWrite_of_lt {a : Nat} (h : a < 4096) (s : State) (p : Nat) (b : Byte) :
    (s.memWrite a b).byteAt p = if a = p then b else s.byteAt p := by
  rw [byteAt_memWrite, effAddr_of_lt h]

theorem memRead_memWrite (s : State) (a p : Nat) (b : Byte) :
    (s.memWrite a b).memRead p = if effAddr a = effAddr p then b else s.memRead p :=
  byteAt_memWrite s a (effAddr p) b

/-- Settles O17: a read and a write each reach the one cell of the effective address. -/
theorem memReadAfterMemWrite : Obligations.MemReadAfterMemWrite := fun s a p b =>
  ⟨memRead_memWrite s a p b, rfl, frame_memWrite (List.mem_singleton_self _) b⟩

/-! ### The fetched word -/

/-- The byte at the lower address is the high one (20_memory.md R54). -/
theorem wordOfBytes_toNat (hi lo : Byte) : (wordOfBytes hi lo).toNat = hi.toNat * 256 + lo.toNat := by
  rw [wordOfBytes, BitVec.toNat_append, ← Nat.shiftLeft_add_eq_or_of_lt lo.isLt, Nat.shiftLeft_eq]

/-- Settles O10, by the value of a word put together from two bytes. -/
theorem fetchIsBigEndian : Obligations.FetchIsBigEndian := fun _ _ => wordOfBytes_toNat _ _

/-- Settles O18: the second write leaves the cell of the first, and each cell is read back. -/
theorem storesAreFetched : Obligations.StoresAreFetched := by
  intro s hi lo hpc
  have hhi : ((s.memWrite s.pc.toNat hi).memWrite (s.pc.toNat + 1) lo).byteAt s.pc.toNat = hi := by
    rw [byteAt_memWrite_of_lt (by omega), if_neg (by omega), byteAt_memWrite_of_lt (by omega), if_pos rfl]
  have hlo : ((s.memWrite s.pc.toNat hi).memWrite (s.pc.toNat + 1) lo).byteAt (s.pc.toNat + 1) = lo := by
    rw [byteAt_memWrite_of_lt (by omega), if_pos rfl]
  exact congrArg₂ wordOfBytes hhi hlo

/-! ### ROM load -/

/-- What each cell holds after a ROM load; bytes past the last cell are dropped (20_memory.md R60). -/
theorem byteAt_romLoad (s : State) (base : Nat) (bytes : List Byte) {a : Nat} (ha : a < 4096) :
    (s.romLoad base bytes).byteAt a =
      if base ≤ a ∧ a < base + bytes.length then bytes.getD (a - base) 0 else s.byteAt a := by
  induction bytes generalizing s base with
  | nil => rw [if_neg (by simp), State.romLoad]
  | cons b bs ih =>
    rw [State.romLoad, List.length_cons]
    by_cases hbase : base ≤ 0xFFF
    · rw [if_pos hbase, ih, byteAt_memWrite_of_lt (by omega)]
      rcases lt_trichotomy a base with hlt | rfl | hgt
      · rw [if_neg (by omega), if_neg (by omega), if_neg (by omega)]
      · rw [if_neg (by omega), if_pos rfl, if_pos (by omega), Nat.sub_self, List.getD_cons_zero]
      · have hrange : base + 1 ≤ a ∧ a < base + 1 + bs.length ↔ base ≤ a ∧ a < base + (bs.length + 1) := by
          omega
        have hsub : a - base = a - (base + 1) + 1 := by omega
        rw [if_congr hrange rfl rfl, if_neg hgt.ne, hsub, List.getD_cons_succ]
    · rw [if_neg hbase, if_neg (by omega)]

/-- Settles O19, by induction on the bytes for the cells; a load changes memory alone. -/
theorem romLoadCopiesBytes : Obligations.RomLoadCopiesBytes := fun s base bytes =>
  ⟨s.romLoad base bytes, rfl, fun _ ha => byteAt_romLoad s base bytes ha, romLoad_eq s base bytes⟩

end Sys2Proof.Safety

/-! ## The decoder: O1 to O7

A word is its own fields put together (30_encoding.md R80), so encoding what a word decodes to gives the word
back, and the word matches the row of that instruction (R75). The converse needs no case for each row: of the
words of one row, which share the fields the dispatch tests, none is unknown unless all are (R77), and no word
matches two rows. -/

namespace Sys2Proof

open Sys2Proof.Machine

/-! ### The fields of a word -/

theorem kkField_eq_append (w : Word) : kkField w = yField w ++ nField w :=
  (BitVec.extractLsb'_append_extractLsb'_eq_extractLsb' (x := w) (start₁ := 0) (len₁ := 4) (len₂ := 4) rfl).symm

theorem nnnField_eq_append (w : Word) : nnnField w = xField w ++ yField w ++ nField w := by
  have hxy : xField w ++ yField w = w.extractLsb' 4 8 :=
    BitVec.extractLsb'_append_extractLsb'_eq_extractLsb' rfl
  have hxyn : w.extractLsb' 4 8 ++ nField w = nnnField w :=
    BitVec.extractLsb'_append_extractLsb'_eq_extractLsb' (start₁ := 0) rfl
  exact hxyn.symm.trans (congrArg (· ++ nField w) hxy.symm)

/-- Settles O2, field by field. -/
theorem fieldsOfEveryWord : Obligations.FieldsOfEveryWord := fun w _ =>
  ⟨opField_toNat w, xField_toNat w, yField_toNat w, nField_toNat w, kkField_toNat w, nnnField_toNat w,
    kkField_eq_append w, nnnField_eq_append w⟩

section assemble

variable {w : Word} {o : Nibble} (ho : opField w = o)
include ho

/-- A word of format `XY` or `XYN` is its fields put together (R72). -/
theorem assembleXYN_of_fields {n : Nibble} (hn : nField w = n) : assembleXYN o (xField w) (yField w) n = w := by
  subst ho hn
  apply BitVec.eq_of_toNat_eq
  rw [assembleXYN_toNat, opField_toNat, xField_toNat, yField_toNat, nField_toNat]
  omega

/-- A word of format `XK`, `XS` or `Z` is its fields put together (R72). -/
theorem assembleXK_of_fields {kk : Byte} (hk : kkField w = kk) : assembleXK o (xField w) kk = w := by
  subst ho hk
  apply BitVec.eq_of_toNat_eq
  rw [assembleXK_toNat, opField_toNat, xField_toNat, kkField_toNat]
  omega

/-- A word of format `A` is its fields put together (R72). -/
theorem assembleA_of_fields : assembleA o (nnnField w) = w := by
  subst ho
  apply BitVec.eq_of_toNat_eq
  rw [assembleA_toNat, opField_toNat, nnnField_toNat]
  omega

end assemble

/-! ### The dispatch (R74) -/

/-- The dispatch on `op`: four values go on to a secondary key, and a word of any other is assembled from the
fields of the instruction it decodes to. -/
theorem decodeKind_cases (w : Word) :
    (opField w = 0x0 ∧ decodeKind w = decodeOp0 w) ∨ (opField w = 0x8 ∧ decodeKind w = decodeOp8 w) ∨
    (opField w = 0xE ∧ decodeKind w = decodeOpE w) ∨ (opField w = 0xF ∧ decodeKind w = decodeOpF w) ∨
    (opField w ∉ [0x0, 0x8, 0xE, 0xF] ∧ ∃ i, decodeKind w = .instr i ∧ i.encode = w) := by
  unfold decodeKind
  split
  case h_1 ho => exact .inl ⟨ho, rfl⟩
  case h_9 ho => exact .inr (.inl ⟨ho, rfl⟩)
  case h_15 ho => exact .inr (.inr (.inl ⟨ho, rfl⟩))
  case h_16 =>
    have ho : opField w = 0xF := by simp only [imp_false] at *; bv_omega
    exact .inr (.inr (.inr (.inl ⟨ho, rfl⟩)))
  case h_2 ho | h_3 ho | h_11 ho | h_12 ho =>
    exact .inr (.inr (.inr (.inr ⟨by simp [ho], _, rfl, assembleA_of_fields ho⟩)))
  case h_4 ho | h_5 ho | h_7 ho | h_8 ho | h_13 ho =>
    exact .inr (.inr (.inr (.inr ⟨by simp [ho], _, rfl, assembleXK_of_fields ho rfl⟩)))
  case h_6 ho | h_10 ho | h_14 ho =>
    exact .inr (.inr (.inr (.inr ⟨by simp [ho], _, rfl, assembleXYN_of_fields ho rfl⟩)))

/-! ### Encoding what a word decodes to -/

section encode_of_decode

variable {w : Word} {i : Instr}

theorem encode_of_decodeOp0 (ho : opField w = 0x0) (h : decodeOp0 w = .instr i) : i.encode = w := by
  unfold decodeOp0 at h
  split at h <;> cases h
  all_goals exact assembleXK_of_fields ho ‹_›

theorem encode_of_decodeOp8 (ho : opField w = 0x8) (h : decodeOp8 w = .instr i) : i.encode = w := by
  unfold decodeOp8 at h
  split at h <;> cases h
  all_goals exact assembleXYN_of_fields ho ‹_›

theorem encode_of_decodeOpE (ho : opField w = 0xE) (h : decodeOpE w = .instr i) : i.encode = w := by
  unfold decodeOpE at h
  split at h <;> cases h
  all_goals exact assembleXK_of_fields ho ‹_›

theorem encode_of_decodeOpF (ho : opField w = 0xF) (h : decodeOpF w = .instr i) : i.encode = w := by
  unfold decodeOpF at h
  split at h <;> cases h
  all_goals exact assembleXK_of_fields ho ‹_›

/-- Encoding what a word decodes to gives the word, so decoding drops no bit (R80). -/
theorem encode_of_decodeKind (h : decodeKind w = .instr i) : i.encode = w := by
  rcases decodeKind_cases w with ⟨ho, hk⟩ | ⟨ho, hk⟩ | ⟨ho, hk⟩ | ⟨ho, hk⟩ | ⟨-, j, hk, hj⟩
  · exact encode_of_decodeOp0 ho (hk ▸ h)
  · exact encode_of_decodeOp8 ho (hk ▸ h)
  · exact encode_of_decodeOpE ho (hk ▸ h)
  · exact encode_of_decodeOpF ho (hk ▸ h)
  · cases hk.symm.trans h; exact hj

/-- The decoder on a word given as a number reads the word from its two bytes, in memory order. -/
theorem decodeTableWord_of_decodeKind (h : decodeKind w = .instr i) : decodeTableWord 16 w.toNat = some i := by
  have hw : BitVec.ofNat 16 (w.toNat % 2 ^ 16) = w := by
    rw [BitVec.toNat_mod_cancel, BitVec.ofNat_toNat, BitVec.setWidth_eq]
  have hbytes : decodeBytes (hiByte w) (loByte w) = .instr i := by rw [decodeBytes, wordOfBytes_bytes, h]
  simp only [decodeTableWord, hw, hbytes]

end encode_of_decode

/-- Decoding the encoding of an instruction gives it back, whatever its ignored nibble (R80). -/
theorem decodeKind_encode (i : Instr) : decodeKind i.encode = .instr i := by
  cases i with
  | cls | ret => simp [Instr.encode, decodeKind, decodeOp0]
  | movReg | orReg | andReg | xorReg | addReg | subReg | shr | subnReg | shl =>
    simp [Instr.encode, decodeKind, decodeOp8]
  | skipKy | skipKn => simp [Instr.encode, decodeKind, decodeOpE]
  | movFromDelay | waitKey | movDelay | movSound | addI | fontI | movBcd | memStore | memLoad =>
    simp [Instr.encode, decodeKind, decodeOpF]
  | jump | call | skipEImm | skipNeImm | skipEReg | movImm | addImm | skipNeReg | movI | jumpV0 | rndmsk | drw =>
    simp [Instr.encode, decodeKind]

/-! ### Canonical spellings (R76) -/

theorem canonical_wellFormed (i : Instr) : i.canonical.wellFormed = true := by
  cases i <;> rfl

theorem canonical_eq_of_wellFormed {i : Instr} (h : i.wellFormed = true) : i.canonical = i := by
  cases i with
  | cls | ret | skipEReg | skipNeReg | shr | shl => rw [Instr.canonical, eq_of_beq h]
  | _ => rfl

/-- Settles O3: the fields of a word put together are the word, and each way round is a lemma above. -/
theorem decodeEncodeRoundTrip : Obligations.DecodeEncodeRoundTrip :=
  ⟨fun _ _ => assembleXYN_of_fields rfl rfl, decodeKind_encode, fun _ _ => encode_of_decodeKind,
    fun i => decodeTableWord_of_decodeKind (decodeKind_encode i), fun _ => canonical_eq_of_wellFormed⟩

/-- `exec` passes no ignored nibble on to the instruction's meaning. -/
theorem exec_canonical (i : Instr) (s : State) : exec i.canonical s = exec i s := by
  cases i <;> rfl

/-- Settles O6, by `exec_canonical` and `canonical_wellFormed`; the four words decode by evaluation. -/
theorem ignoredNibblesHaveNoEffect : Obligations.IgnoredNibblesHaveNoEffect := by
  have hwords : decodeKind 0x07E0 = .instr (.cls 0x7) ∧ decodeKind 0x07EE = .instr (.ret 0x7) ∧
      decodeKind 0x5AB7 = .instr (.skipEReg 0xA 0xB 0x7) ∧
      decodeKind 0x9AB5 = .instr (.skipNeReg 0xA 0xB 0x5) := by decide
  exact ⟨fun i s => (exec_canonical i s).symm, canonical_wellFormed, hwords⟩

/-! ### The unknown words (R77) -/

theorem decodeOp0_eq_unknown_iff (w : Word) : decodeOp0 w = .unknown ↔ kkField w ∉ [0xE0, 0xEE] := by
  unfold decodeOp0
  split <;> simp_all

theorem decodeOp8_eq_unknown_iff (w : Word) :
    decodeOp8 w = .unknown ↔ nField w ∈ [0x8, 0x9, 0xA, 0xB, 0xC, 0xD, 0xF] := by
  unfold decodeOp8
  split
  case h_10 =>
    refine iff_of_true rfl ?_
    simp only [List.mem_cons, List.not_mem_nil, or_false, imp_false] at *
    bv_omega
  all_goals simp_all

theorem decodeOpE_eq_unknown_iff (w : Word) : decodeOpE w = .unknown ↔ kkField w ∉ [0x9E, 0xA1] := by
  unfold decodeOpE
  split <;> simp_all

theorem decodeOpF_eq_unknown_iff (w : Word) :
    decodeOpF w = .unknown ↔ kkField w ∉ [0x07, 0x0A, 0x15, 0x18, 0x1E, 0x29, 0x33, 0x55, 0x65] := by
  unfold decodeOpF
  split <;> simp_all

/-- Settles O5, by the four secondary keys. -/
theorem unknownWordsExactly : Obligations.UnknownWordsExactly := by
  intro w
  rcases decodeKind_cases w with ⟨ho, hk⟩ | ⟨ho, hk⟩ | ⟨ho, hk⟩ | ⟨ho, hk⟩ | ⟨ho, i, hk, -⟩
  · rw [hk, decodeOp0_eq_unknown_iff]; simp [ho]
  · rw [hk, decodeOp8_eq_unknown_iff]; simp [ho]
  · rw [hk, decodeOpE_eq_unknown_iff]; simp [ho]
  · rw [hk, decodeOpF_eq_unknown_iff]; simp [ho]
  · simp_all

/-! ### The rows of the opcode map (R75) -/

theorem row_mem_opcodeTable (i : Instr) : i.row ∈ opcodeTable := by
  cases i <;> simp [Instr.row, opcodeTable]

/-- The encoding of an instruction matches its row, by the format of the word (R72). -/
theorem encode_matches_row (i : Instr) : i.encode &&& i.row.mask = i.row.pattern := by
  open Laws.EncodeRow in
  cases i with
  | jump | call | movI | jumpV0 => exact mask_A _ _
  | skipEImm | skipNeImm | movImm | addImm | rndmsk => exact mask_XK _ _ _
  | skipEReg | skipNeReg | drw => exact mask_XYN _ _ _ _
  | movReg | orReg | andReg | xorReg | addReg | subReg | shr | subnReg | shl => exact mask_XY _ _ _ _
  | cls | ret | skipKy | skipKn | movFromDelay | waitKey | movDelay | movSound | addI | fontI | movBcd
  | memStore | memLoad => exact mask_XS _ _ _

theorem row_matches_of_decodeKind {w : Word} {i : Instr} (h : decodeKind w = .instr i) :
    w &&& i.row.mask = i.row.pattern := by
  have hrow := encode_matches_row i
  rwa [encode_of_decodeKind h] at hrow

/-- Every mask tests `op`, and the secondary key where the dispatch R74 has one. -/
theorem opcodeTable_masks : ∀ r ∈ opcodeTable, opField r.mask = 0xF ∧
    (opField r.pattern ∈ [0x0, 0xE, 0xF] → kkField r.mask = 0xFF) ∧
    (opField r.pattern = 0x8 → nField r.mask = 0xF) := by decide

theorem opcodeTable_patterns_known : ∀ r ∈ opcodeTable, decodeKind r.pattern ≠ .unknown := by decide

/-- A word that matches a row has the tested fields of the row's pattern, which is not unknown. -/
theorem decodeKind_ne_unknown_of_row_matches {r : OpcodeRow} (hr : r ∈ opcodeTable) {w : Word}
    (hw : w &&& r.mask = r.pattern) : decodeKind w ≠ .unknown := by
  obtain ⟨hop, hkk, hn⟩ := opcodeTable_masks r hr
  refine fun hunknown => opcodeTable_patterns_known r hr ((unknownWordsExactly r.pattern).mpr ?_)
  have hkeys := (unknownWordsExactly w).mp hunknown
  rw [op_of_mask hw hop] at hkeys
  rcases hkeys with ⟨ho, hkey⟩ | ⟨ho, hkey⟩ | ⟨ho, hkey⟩ | ⟨ho, hkey⟩
  · exact .inl ⟨ho, kk_of_mask hw (hkk (by simp [ho])) ▸ hkey⟩
  · exact .inr (.inl ⟨ho, n_of_mask hw (hn ho) ▸ hkey⟩)
  · exact .inr (.inr (.inl ⟨ho, kk_of_mask hw (hkk (by simp [ho])) ▸ hkey⟩))
  · exact .inr (.inr (.inr ⟨ho, kk_of_mask hw (hkk (by simp [ho])) ▸ hkey⟩))

/-- No word matches both rows. -/
def OpcodeRow.Disjoint (p q : OpcodeRow) : Prop :=
  ∀ w : Word, ¬(w &&& p.mask = p.pattern ∧ w &&& q.mask = q.pattern)

/-- Two rows are disjoint if their patterns differ in a bit that both masks test. -/
theorem disjoint_of_pattern_ne {p q : OpcodeRow} (h : p.pattern &&& q.mask ≠ q.pattern &&& p.mask) :
    p.Disjoint q := by
  rintro w ⟨hp, hq⟩
  rw [← hp, ← hq, BitVec.and_assoc, BitVec.and_assoc, BitVec.and_comm p.mask] at h
  exact h rfl

theorem opcodeTable_pairwise_disjoint : opcodeTable.Pairwise OpcodeRow.Disjoint := by
  have h : opcodeTable.Pairwise fun p q => p.pattern &&& q.mask ≠ q.pattern &&& p.mask := by decide
  exact h.imp disjoint_of_pattern_ne

/-- A word matches at most one row of the table. -/
theorem eq_of_row_matches {p q : OpcodeRow} (hp : p ∈ opcodeTable) (hq : q ∈ opcodeTable) {w : Word}
    (hwp : w &&& p.mask = p.pattern) (hwq : w &&& q.mask = q.pattern) : p = q := by
  have : Std.Symm OpcodeRow.Disjoint := ⟨fun _ _ h w hw => h w hw.symm⟩
  exact by_contra fun hne => opcodeTable_pairwise_disjoint.forall hp hq hne w ⟨hwp, hwq⟩

/-- Settles O4: a word that matches a row is not unknown, and the row of its instruction is the only one it
matches. -/
theorem wordIsInstructionIffItsRowMatches : Obligations.WordIsInstructionIffItsRowMatches := by
  refine ⟨rfl, fun r hr w => ⟨?_, fun hw => ?_⟩, opcodeTable_pairwise_disjoint⟩
  · rintro ⟨i, hi, rfl⟩
    exact row_matches_of_decodeKind hi
  · cases hk : decodeKind w with
    | unknown => exact absurd hk (decodeKind_ne_unknown_of_row_matches hr hw)
    | instr i =>
      exact ⟨i, rfl, eq_of_row_matches (row_mem_opcodeTable i) hr (row_matches_of_decodeKind hk) hw⟩

/-! ### Words and texts the spec writes out -/

/-- Settles O1, by evaluating the dispatch on each word. -/
theorem specWordsDecode : Obligations.SpecWordsDecode := by
  unfold Obligations.SpecWordsDecode
  decide

/-- Settles O7, by evaluating the decoder with its texts on each word. -/
theorem decoderOutputText : Obligations.DecoderOutputText := by
  unfold Obligations.DecoderOutputText
  decide

end Sys2Proof

/-! ## The cycle: O8, O9, O11, O12, O13, O14, O28

A cycle reads neither `PAUSED` nor `CAUSE` (40_cycle.md R98), and of the instructions only `RNDMSK` reads the
draw count (R97). Both are said once (`ControlBlind`): with these three fields replaced, every other
instruction, and so every other cycle, keeps the new values, or halts with the same cause as before. -/

namespace Sys2Proof.Safety

open Sys2Proof.Machine

/-! ### Instructions that read neither the run control nor the draw count -/

/-- The state with another `PAUSED`, another `CAUSE` and another count of draws. -/
def withControl (s : State) (p : Bool) (c : Cause) (d : Nat) : State :=
  { s with paused := p, cause := c, draws := d }

/-- `f` completes at `s` and does the same whatever the run control and the draw count are: it keeps all
three, or it keeps the draw count and halts. -/
inductive ControlBlind (f : State → Host.Outcome State Fault Refusal) (s : State) : Prop
  | keeps (t : State) (ht : ∀ p c d, f (withControl s p c d) = .next (withControl t p c d))
  | halts (t : State) (h : Cause) (hh : h ≠ .none)
      (ht : ∀ p c d, f (withControl s p c d) = .next (withControl t true h d))

section ControlBlind

variable {f : State → Host.Outcome State Fault Refusal} {s t : State}

/-- `ControlBlind.keeps` where the next state is read off the run of `f`. -/
theorem controlBlind_of_next (_ : f s = .next t)
    (ht : ∀ p c d, f (withControl s p c d) = .next (withControl t p c d)) : ControlBlind f s :=
  .keeps t ht

theorem ite_withControl {b : Prop} [Decidable b] {u v u' v' : State} {p : Bool} {c : Cause} {d : Nat}
    (hu : u' = withControl u p c d) (hv : v' = withControl v p c d) :
    (if b then u' else v') = withControl (if b then u else v) p c d := by
  rw [hu, hv]; exact (apply_ite (withControl · p c d) ..).symm

theorem skipIf_withControl (s : State) (b : Bool) (p : Bool) (c : Cause) (d : Nat) :
    (withControl s p c d).skipIf b = withControl (s.skipIf b) p c d := by
  cases b <;> rfl

theorem storeRegs_withControl (s : State) (m : Nat) (p : Bool) (c : Cause) (d : Nat) :
    (withControl s p c d).storeRegs m = withControl (s.storeRegs m) p c d :=
  List.foldl_hom (withControl · p c d) fun _ _ => rfl

theorem loadRegs_withControl (s : State) (m : Nat) (p : Bool) (c : Cause) (d : Nat) :
    (withControl s p c d).loadRegs m = withControl (s.loadRegs m) p c d :=
  List.foldl_hom (withControl · p c d) fun _ _ => rfl

theorem exec_controlBlind {i : Instr} (hi : ∀ x kk, i ≠ .rndmsk x kk) (s : State) : ControlBlind (exec i) s := by
  cases i with
  | rndmsk x kk => exact absurd rfl (hi x kk)
  | ret =>
    cases hs : s.stack with
    | nil => exact .halts s .stackUnderflow (by decide) fun p c d =>
        execRet_of_stack_nil (s := withControl s p c d) hs
    | cons => exact controlBlind_of_next (execRet_of_stack_cons hs) fun p c d =>
        execRet_of_stack_cons (s := withControl s p c d) hs
  | call =>
    by_cases h : s.sp < Config.stackDepth
    · exact controlBlind_of_next (if_pos h) fun _ _ _ => if_pos h
    · exact .halts s .stackOverflow (by decide) fun _ _ _ => if_neg h
  | skipEImm | skipNeImm | skipEReg | skipNeReg | skipKy | skipKn =>
    exact controlBlind_of_next rfl fun p c d => congrArg Host.Outcome.next (skipIf_withControl s _ p c d)
  | waitKey | fontI =>
    exact controlBlind_of_next rfl fun _ _ _ => congrArg Host.Outcome.next (ite_withControl rfl rfl)
  | memStore =>
    exact controlBlind_of_next rfl fun _ _ _ =>
      congrArg Host.Outcome.next (ite_withControl (storeRegs_withControl s _ _ _ _) rfl)
  | memLoad =>
    exact controlBlind_of_next rfl fun _ _ _ =>
      congrArg Host.Outcome.next (ite_withControl (loadRegs_withControl s _ _ _ _) rfl)
  | cls | drw | jump | jumpV0 | movImm | addImm | movReg | orReg | andReg | xorReg | addReg | subReg | subnReg
  | shr | shl | movFromDelay | movI | addI | movDelay | movSound | movBcd =>
    exact controlBlind_of_next rfl fun _ _ _ => rfl

/-- A cycle is blind to them where the instruction it decodes is, after the advance. -/
theorem cycle_controlBlind_of_instr {i : Instr} (hpc : s.pc.toNat ≤ 0xFFD) (hi : decodeKind s.fetchWord = .instr i)
    (hexec : ControlBlind (exec i) s.advance) : ControlBlind cycle s := by
  have hcycle : ∀ p c d, cycle (withControl s p c d) = exec i (withControl s.advance p c d) :=
    fun p c d => cycle_of_instr (s := withControl s p c d) hpc hi
  cases hexec with
  | keeps t ht => exact .keeps t fun p c d => (hcycle p c d).trans (ht p c d)
  | halts t h hh ht => exact .halts t h hh fun p c d => (hcycle p c d).trans (ht p c d)

theorem cycle_of_pc_gt (hpc : s.pc.toNat > 0xFFE) : cycle s = .next (s.raiseHalt .pcOob) := if_pos hpc

/-- Every cycle completes without reading the run control or the draw count, but for `RNDMSK` (R97, R98). -/
theorem cycle_controlBlind_or_rndmsk (s : State) : ControlBlind cycle s ∨
    ∃ x kk, s.pc.toNat ≤ 0xFFD ∧ decodeKind s.fetchWord = .instr (.rndmsk x kk) := by
  rcases cycle_cases s with ⟨hpc, -⟩ | ⟨hpc, -⟩ | ⟨i, hpc, hi, -⟩ | ⟨hpc, hk, -⟩
  · exact .inl (.halts s .pcOob (by decide) fun p c d => cycle_of_pc_gt (s := withControl s p c d) hpc)
  · exact .inl (.halts s.advance .pcOob (by decide) fun p c d => cycle_of_pc_eq (s := withControl s p c d) hpc)
  · by_cases hrnd : ∃ x kk, i = .rndmsk x kk
    · obtain ⟨x, kk, rfl⟩ := hrnd
      exact .inr ⟨x, kk, hpc, hi⟩
    · exact .inl (cycle_controlBlind_of_instr hpc hi (exec_controlBlind (fun x kk e => hrnd ⟨x, kk, e⟩) _))
  · exact .inl (.keeps s.advance fun p c d => cycle_of_unknown (s := withControl s p c d) hpc hk)

/-- `RNDMSK` reads the draw count, and that alone of the three (42_alu.md R122). -/
theorem cycle_withControl_of_rndmsk {x : Reg} {kk : Byte} (hpc : s.pc.toNat ≤ 0xFFD)
    (hi : decodeKind s.fetchWord = .instr (.rndmsk x kk)) (p : Bool) (c : Cause) (d : Nat) :
    cycle (withControl s p c d) =
      .next (withControl (s.advance.setV x (Config.rnd d &&& kk)) p c (d + 1)) :=
  cycle_of_instr (s := withControl s p c d) hpc hi

/-- `PAUSED` and `CAUSE` go through a cycle unread: it keeps them or halts. -/
theorem cycle_runControl (s : State) : ∃ u d,
    (∀ p c, cycle (withControl s p c s.draws) = .next (withControl u p c d)) ∨
    ∃ h, h ≠ .none ∧ ∀ p c, cycle (withControl s p c s.draws) = .next (withControl u true h d) := by
  rcases cycle_controlBlind_or_rndmsk s with (⟨t, ht⟩ | ⟨t, h, hh, ht⟩) | ⟨x, kk, hpc, hi⟩
  · exact ⟨t, s.draws, .inl fun p c => ht p c s.draws⟩
  · exact ⟨t, s.draws, .inr ⟨h, hh, fun p c => ht p c s.draws⟩⟩
  · exact ⟨_, _, .inl fun p c => cycle_withControl_of_rndmsk hpc hi p c s.draws⟩

end ControlBlind

/-- Settles O13: a cycle blind to the draw count keeps it, and `RNDMSK` completes too. -/
theorem everyCycleCompletes : Obligations.EveryCycleCompletes := by
  refine ⟨fun s => ?_, fun s t d hno ht => ?_⟩
  · rcases cycle_runControl s with ⟨u, d, hkeep | ⟨h, -, hhalt⟩⟩
    · exact ⟨_, hkeep s.paused s.cause⟩
    · exact ⟨_, hhalt s.paused s.cause⟩
  · rcases cycle_controlBlind_or_rndmsk s with (⟨u, hu⟩ | ⟨u, h, -, hu⟩) | ⟨x, kk, -, hi⟩
    · cases (hu s.paused s.cause s.draws).symm.trans ht
      exact ⟨rfl, hu s.paused s.cause d⟩
    · cases (hu s.paused s.cause s.draws).symm.trans ht
      exact ⟨rfl, hu s.paused s.cause d⟩
    · exact absurd hi (hno x kk)

/-- Settles O14: what the cycle keeps of the run control may differ, a halt overwrites it alike. -/
theorem cycleDoesNotReadRunControl : Obligations.CycleDoesNotReadRunControl := by
  intro s s' t hs' ht
  have hs : s' = withControl s s'.paused s'.cause s.draws := hs'
  rw [hs]
  rcases cycle_runControl s with ⟨u, d, hkeep | ⟨h, -, hhalt⟩⟩
  · cases (hkeep s.paused s.cause).symm.trans ht
    exact ⟨_, hkeep _ _, rfl⟩
  · cases (hhalt s.paused s.cause).symm.trans ht
    exact ⟨_, hhalt _ _, rfl⟩

/-- Settles O28: the cycle of a `SingleStep` keeps `PAUSED` and `CAUSE`, or halts. -/
theorem singleStepStaysPaused : Obligations.SingleStepStaysPaused := by
  intro s t hpaused ht
  obtain ⟨-, hsingle, -⟩ := runAndSingleStepByPaused s
  obtain ⟨hcycle, -⟩ := hsingle hpaused
  rcases cycle_runControl s with ⟨u, d, hkeep | ⟨h, hh, hhalt⟩⟩
  · cases (hkeep s.paused s.cause).symm.trans (hcycle.symm.trans ht)
    exact ⟨hpaused, .inl rfl⟩
  · cases (hhalt s.paused s.cause).symm.trans (hcycle.symm.trans ht)
    exact ⟨rfl, .inr hh⟩

/-- Settles O11: an unknown word adds nothing to the advance of `pc`. -/
theorem unknownWordOnlyAdvances : Obligations.UnknownWordOnlyAdvances := fun _ => cycle_of_unknown

/-- Settles O12: the fetch guard halts, and the halt leaves `pc` where it was. -/
theorem fetchGuardHalts : Obligations.FetchGuardHalts := fun s hpc =>
  ⟨_, cycle_of_pc_gt hpc, rfl, cycle_of_pc_gt (s := s.raiseHalt .pcOob) hpc⟩

/-! ### The step of a listed event -/

section Step

variable {s : State} {e : Event} {es : List Event}

theorem step_of_inputs_cons (h : s.inputs = e :: es) : step s = applyEvent e { s with inputs := es } := by
  simp only [step, nextEvent, h]

theorem step_of_inputs_nil (h : s.inputs = []) (hp : s.paused = false) : step s = cycle s := by
  simp [step, nextEvent, h, hp]

theorem step_of_run (h : s.inputs = .run :: es) (hp : s.paused = false) :
    step s = cycle { s with inputs := es } := by
  obtain ⟨hrun, -⟩ := runAndSingleStepByPaused { s with inputs := es }
  exact (step_of_inputs_cons h).trans (hrun hp).1

theorem step_of_singleStep (h : s.inputs = .singleStep :: es) (hp : s.paused = true) :
    step s = cycle { s with inputs := es } := by
  obtain ⟨-, hsingle, -⟩ := runAndSingleStepByPaused { s with inputs := es }
  exact (step_of_inputs_cons h).trans (hsingle hp).1

end Step

/-- Settles O8: each of the three ways to run a cycle, then the instruction the cycle decodes. -/
theorem stepRunsTheDecodedInstruction : Obligations.StepRunsTheDecodedInstruction := by
  refine ⟨fun s e es h => step_of_inputs_cons h, fun s i hpc hi => ⟨fun h hp => ?_, fun es h hp => ?_,
    fun es h hp => ?_⟩⟩
  · exact (step_of_inputs_nil h hp).trans (cycle_of_instr hpc hi)
  · exact (step_of_run h hp).trans (cycle_of_instr (s := { s with inputs := es }) hpc hi)
  · exact (step_of_singleStep h hp).trans (cycle_of_instr (s := { s with inputs := es }) hpc hi)

/-! ### A placed word -/

/-- Where `placeWord` puts a word: at `pc`, or at 0x0200 where no word at `pc` would be applied (R91, R94). -/
def placeAddr (s : State) : Word := if s.pc.toNat ≤ 0xFFD then s.pc else resetPc

/-- The state `placeWord` makes, but with the events of `s`: the one whose cycle the next step runs. -/
def withWordAt (s : State) (a w : Word) : State :=
  ((s.setPc a).memWrite a.toNat (hiByte w)).memWrite (a.toNat + 1) (loByte w)

theorem placeAddr_toNat_le (s : State) : (placeAddr s).toNat ≤ 0xFFD := by
  rw [placeAddr]
  split
  · assumption
  · decide

theorem hiByte_toNat (w : Word) : (hiByte w).toNat = w.toNat / 256 := by
  rw [hiByte, BitVec.extractLsb'_toNat, Nat.shiftRight_eq_div_pow]
  omega

theorem loByte_toNat (w : Word) : (loByte w).toNat = w.toNat % 256 := rfl

theorem withFetchWord_toNat (s : State) (w : Word) : s.withFetchWord 16 w.toNat = s.placeWord w := by
  rw [State.withFetchWord, BitVec.toNat_mod_cancel, BitVec.ofNat_toNat, BitVec.setWidth_eq]

/-- `placeWord` makes the next event one that runs a cycle. -/
theorem step_placeWord (s : State) (w : Word) : step (s.placeWord w) = cycle (withWordAt s (placeAddr s) w) := by
  cases hp : s.paused with
  | true => exact step_of_singleStep (s := s.placeWord w) (by simp [State.placeWord, hp]) hp
  | false =>
    cases hin : s.inputs with
    | nil =>
      have hnone : (s.placeWord w).inputs = [] := by simp [State.placeWord, hp, hin]
      have hplaced : s.placeWord w = withWordAt s (placeAddr s) w :=
        congrArg (fun es => { withWordAt s (placeAddr s) w with inputs := es }) (hnone.trans hin.symm)
      exact (step_of_inputs_nil hnone hp).trans (congrArg cycle hplaced)
    | cons e es => exact step_of_run (s := s.placeWord w) (by simp [State.placeWord, hp, hin]) hp

section WithWordAt

variable {s : State} {a : Word} (ha : a.toNat ≤ 0xFFD) (w : Word)

include ha

theorem fetchWord_withWordAt : (withWordAt s a w).fetchWord = w :=
  (storesAreFetched (s.setPc a) (hiByte w) (loByte w) (ha.trans (by decide))).trans (wordOfBytes_bytes w)

theorem byteAt_withWordAt (b : Nat) : (withWordAt s a w).byteAt b =
    if a.toNat + 1 = b then loByte w else if a.toNat = b then hiByte w else s.byteAt b := by
  rw [withWordAt, byteAt_memWrite_of_lt (by omega), byteAt_memWrite_of_lt (by omega), State.setPc_byteAt]

end WithWordAt

/-- Settles O9: the next step is the cycle that fetches the placed word, and the two writes reach its bytes
alone. -/
theorem placedInstructionRunsNext : Obligations.PlacedInstructionRunsNext := by
  intro s i
  have ha := placeAddr_toNat_le s
  have hstep : step (s.withFetchWord 16 i.encode.toNat) =
      exec i (withWordAt s (placeAddr s) i.encode).advance := by
    rw [withFetchWord_toNat, step_placeWord]
    exact cycle_of_instr ha ((congrArg decodeKind (fetchWord_withWordAt ha _)).trans (decodeKind_encode i))
  refine ⟨_, (placeAddr s).toNat, hstep, fun hpc => ?_, fun hpc => ?_, ?_, ?_, fun b hb hb' => ?_, fun _ => rfl,
    rfl, rfl, rfl, rfl, rfl, rfl, rfl, rfl, rfl, rfl, rfl⟩
  · have : placeAddr s = s.pc := if_pos hpc
    exact ⟨congrArg _ this, congrArg (· + 2) this⟩
  · have : placeAddr s = resetPc := if_neg (by omega)
    exact ⟨congrArg BitVec.toNat this, congrArg (· + 2) this⟩
  · rw [State.advance_byteAt, byteAt_withWordAt ha, if_neg (by omega), if_pos rfl, hiByte_toNat]
  · rw [State.advance_byteAt, byteAt_withWordAt ha, if_pos rfl, loByte_toNat]
  · rw [State.advance_byteAt, byteAt_withWordAt ha, if_neg (Ne.symm hb'), if_neg (Ne.symm hb)]

end Sys2Proof.Safety

/-! ## Control transfer: O35 to O40

A word that matches a row is the encoding of the instruction made of its fields (30_encoding.md R80), so it
decodes to that instruction. `exec` then answers a composition of the named operations, each with its frame. -/

namespace Sys2Proof.Safety

open Sys2Proof.Machine

/-- A word decodes to the one instruction that encodes to it (R80). -/
theorem decodeKind_of_encode_eq {w : Word} {i : Instr} (h : i.encode = w) : decodeKind w = .instr i :=
  h ▸ decodeKind_encode i

/-! ### The call stack (41_flow.md R100, R102) -/

theorem execCall_of_length_lt {s : State} (h : s.stack.length < 16) (nnn : Addr12) :
    execCall nnn s = .next ((s.push s.pc).setPc (zextAddr nnn)) :=
  if_pos h

theorem execCall_of_length_ge {s : State} (h : 16 ≤ s.stack.length) (nnn : Addr12) :
    execCall nnn s = .next (s.raiseHalt .stackOverflow) :=
  if_neg (Nat.not_lt.mpr h)

/-- `RET` takes back the entry pushed last, wherever `pc` has gone in between (R100). -/
theorem execRet_push_setPc (s : State) (w a : Word) : execRet ((s.push w).setPc a) = .next (s.setPc w) :=
  execRet_of_stack_cons (w := w) (ws := s.stack) rfl

/-- Settles O37: `RET` takes back the `pc` that `CALL` pushed, and setting `pc` to itself changes nothing. -/
theorem retBalancesCall : Obligations.RetBalancesCall := fun s nnn _ a hlt =>
  ⟨_, _, execCall_of_length_lt hlt nnn, execRet_push_setPc s s.pc a, rfl⟩

/-- Settles O35, by the two cases of the stack. -/
theorem retPops : Obligations.RetPops := by
  refine ⟨fun w hw => ?_, fun s x w rest hs => ?_, fun s x hs => ?_⟩
  · exact decodeKind_of_encode_eq (assembleXK_of_fields (op_of_mask hw rfl) (kk_of_mask hw rfl))
  · exact ⟨_, execRet_of_stack_cons hs, rfl, congrArg List.tail hs, (frame_dropTop rfl).trans (frame_setPc rfl w)⟩
  · exact ⟨_, execRet_of_stack_nil hs, rfl, rfl, hs, frame_raiseHalt rfl _⟩

/-- Settles O36, by the two sides of the depth 16. -/
theorem callPushes : Obligations.CallPushes := by
  refine ⟨fun w hw => ?_, fun s nnn hlt => ?_, fun s nnn hfull => ?_⟩
  · exact decodeKind_of_encode_eq (assembleA_of_fields (op_of_mask hw rfl))
  · exact ⟨_, execCall_of_length_lt hlt nnn, zextAddr_toNat nnn, rfl, (frame_push rfl _).trans (frame_setPc rfl _)⟩
  · exact ⟨_, execCall_of_length_ge hfull.ge nnn, rfl, rfl, frame_raiseHalt rfl _⟩

/-! ### Jumps (R101, R107) -/

/-- Settles O38: a 12-bit target fits `pc`. -/
theorem jumpAbsolute : Obligations.JumpAbsolute :=
  ⟨fun _ hw => decodeKind_of_encode_eq (assembleA_of_fields (op_of_mask hw rfl)),
    fun _ nnn => ⟨_, rfl, zextAddr_toNat nnn, frame_setPc rfl _⟩⟩

/-- Settles O39: the sum fits `pc`, so it does not wrap. -/
theorem jumpPlusV0 : Obligations.JumpPlusV0 :=
  ⟨fun _ hw => decodeKind_of_encode_eq (assembleA_of_fields (op_of_mask hw rfl)),
    fun s nnn => ⟨_, rfl, jumpV0_target_toNat nnn (s.getV 0), frame_setPc rfl _⟩⟩

/-! ### Register skips (R103 to R106) -/

theorem skipIf_beq_pc (s : State) (a b : Byte) :
    (s.skipIf (a == b)).pc = if a = b then s.pc + 2 else s.pc := by
  by_cases h : a = b <;> simp [State.skipIf, h]

theorem skipIf_bne_pc (s : State) (a b : Byte) :
    (s.skipIf (a != b)).pc = if a = b then s.pc else s.pc + 2 := by
  by_cases h : a = b <;> simp [State.skipIf, h]

/-- Settles O40: two of the skips test equality and two inequality. -/
theorem registerSkips : Obligations.RegisterSkips := by
  refine ⟨fun w hw => ?_, fun w hw => ?_, fun w hw => ?_, fun w hw => ?_, fun s x y kk n => ⟨?_, ?_, ?_, ?_⟩⟩
  · exact decodeKind_of_encode_eq (assembleXK_of_fields (op_of_mask hw rfl) rfl)
  · exact decodeKind_of_encode_eq (assembleXK_of_fields (op_of_mask hw rfl) rfl)
  · exact decodeKind_of_encode_eq (assembleXYN_of_fields (op_of_mask hw rfl) rfl)
  · exact decodeKind_of_encode_eq (assembleXYN_of_fields (op_of_mask hw rfl) rfl)
  · exact ⟨_, rfl, skipIf_beq_pc s _ _, frame_skipIf rfl _⟩
  · exact ⟨_, rfl, skipIf_bne_pc s _ _, frame_skipIf rfl _⟩
  · exact ⟨_, rfl, skipIf_beq_pc s _ _, frame_skipIf rfl _⟩
  · exact ⟨_, rfl, skipIf_bne_pc s _ _, frame_skipIf rfl _⟩

end Sys2Proof.Safety

/-! ## Register and ALU instructions: O41 to O47

Every instruction here ends in a write of `V[x]` (`setV`), and the five flag-writing ones write VF before it
(`writeFlagged`, 42_alu.md R110). The frame and the reads of these two writes are known, so each statement
turns on the value written. -/

namespace Sys2Proof.Safety

open Sys2Proof.Machine

/-! ### Words of a pattern -/

/-- A word of a pattern `?xy?` with fixed `op` and `n` is these two with its own fields (30_encoding.md R75). -/
theorem assembleXYN_of_mask {w c : Word} {o n : Nibble} (h : w &&& 0xF00F = c) (ho : opField c = o)
    (hn : nField c = n) : assembleXYN o (xField w) (yField w) n = w :=
  assembleXYN_of_fields ((op_of_mask h rfl).trans ho) ((n_of_mask h rfl).trans hn)

/-! ### Values and flags -/

theorem trunc8_toNat (k : Nat) : (trunc8 k).toNat = k % 256 := BitVec.toNat_ofNat k 8

theorem flagByte_decide (p : Prop) [Decidable p] : flagByte (decide p) = if p then 1 else 0 := by
  by_cases hp : p <;> simp [flagByte, hp]

/-- The flag of a bit shifted out is that bit. -/
theorem flagByte_getLsbD_toNat (b : Byte) (k : Nat) :
    (flagByte (b.getLsbD k)).toNat = b.toNat / 2 ^ k % 2 := by
  have hflag : ∀ c, (flagByte c).toNat = c.toNat := by decide
  rw [hflag, BitVec.getLsbD, Nat.toNat_testBit]

theorem shrFlag_toNat (b : Byte) : (shrFlag b).toNat = b.toNat % 2 := by
  rw [shrFlag, flagByte_getLsbD_toNat, Nat.pow_zero, Nat.div_one]

theorem shlFlag_toNat (b : Byte) : (shlFlag b).toNat = b.toNat / 128 := by
  have hb := b.isLt
  rw [shlFlag, flagByte_getLsbD_toNat]
  omega

/-! ### The write of `V[x]`, alone and after the write of VF (42_alu.md R110) -/

section Writes

variable (s : State) (x : Reg) (flag result : Byte)

theorem getV_writeFlagged_self : (s.writeFlagged x flag result).getV x = result :=
  getV_setV_self _ x result

variable {x} in
theorem getV_writeFlagged_vf (hx : x ≠ 15) : (s.writeFlagged x flag result).getV 15 = flag := by
  rw [getV_writeFlagged, if_neg hx.symm, if_pos rfl]

theorem frame_regs_setV : Frame { regs := [x] } s (s.setV x result) :=
  frame_setV (List.mem_singleton_self x) result

theorem frame_regs_writeFlagged : Frame { regs := [x, 15] } s (s.writeFlagged x flag result) :=
  frame_writeFlagged (by simp) (by simp) flag result

/-- What the two writes of a subtraction `a - b` leave (R118, R119). -/
theorem writeFlagged_difference (a b : Byte) :
    let t := s.writeFlagged x (noBorrowFlag a b) (trunc8 (256 + a.toNat - b.toNat))
    (t.getV x).toNat = (256 + a.toNat - b.toNat) % 256 ∧
      (x ≠ 15 → t.getV 15 = if a.toNat > b.toNat then 1 else 0) ∧ Frame { regs := [x, 15] } s t := by
  refine ⟨?_, fun hx => ?_, frame_regs_writeFlagged s x _ _⟩
  · rw [getV_writeFlagged_self, trunc8_toNat]
  · rw [getV_writeFlagged_vf s _ _ hx, noBorrowFlag, flagByte_decide]

end Writes

/-! ### The statements -/

/-- Settles O41, by the read after the write of `V[x]`. -/
theorem movImmediate : Obligations.MovImmediate :=
  ⟨fun _ hw => decodeKind_of_encode_eq (assembleXK_of_fields (op_of_mask hw rfl) rfl),
    fun s x kk => ⟨_, rfl, getV_setV_self s x kk, frame_regs_setV s x kk⟩⟩

/-- Settles O42: the truncation of the sum is its value modulo 256. -/
theorem addImmediateWraps : Obligations.AddImmediateWraps := by
  refine ⟨fun _ hw => decodeKind_of_encode_eq (assembleXK_of_fields (op_of_mask hw rfl) rfl), fun s x kk => ?_⟩
  exact ⟨_, rfl, by rw [getV_setV_self, trunc8_toNat], frame_regs_setV s x _⟩

/-- Settles O43, bit by bit. -/
theorem moveAndBitwise : Obligations.MoveAndBitwise := by
  refine ⟨fun w hw => ?_, fun w hw => ?_, fun w hw => ?_, fun w hw => ?_, fun s x y => ⟨?_, ?_, ?_, ?_⟩⟩
  · exact decodeKind_of_encode_eq (assembleXYN_of_mask hw rfl rfl)
  · exact decodeKind_of_encode_eq (assembleXYN_of_mask hw rfl rfl)
  · exact decodeKind_of_encode_eq (assembleXYN_of_mask hw rfl rfl)
  · exact decodeKind_of_encode_eq (assembleXYN_of_mask hw rfl rfl)
  · exact ⟨_, rfl, getV_setV_self s x _, frame_regs_setV s x _⟩
  · exact ⟨_, rfl, fun k => by rw [getV_setV_self, BitVec.getLsbD_or], frame_regs_setV s x _⟩
  · exact ⟨_, rfl, fun k => by rw [getV_setV_self, BitVec.getLsbD_and], frame_regs_setV s x _⟩
  · exact ⟨_, rfl, fun k => by rw [getV_setV_self, BitVec.getLsbD_xor], frame_regs_setV s x _⟩

/-- Settles O44, by the two writes of R110. -/
theorem addRegistersWithCarry : Obligations.AddRegistersWithCarry := by
  refine ⟨fun _ hw => decodeKind_of_encode_eq (assembleXYN_of_mask hw rfl rfl), fun s x y => ?_⟩
  refine ⟨_, rfl, ?_, fun hx => ?_, frame_regs_writeFlagged s x _ _⟩
  · rw [getV_writeFlagged_self, trunc8_toNat]
  · rw [getV_writeFlagged_vf s _ _ hx, carryFlag, flagByte_decide]

/-- Settles O45: `SUBN` is `SUB` with the minuend and the subtrahend exchanged. -/
theorem subtractWithNoBorrow : Obligations.SubtractWithNoBorrow := by
  refine ⟨fun w hw => ?_, fun w hw => ?_, fun s x y => ⟨?_, ?_⟩⟩
  · exact decodeKind_of_encode_eq (assembleXYN_of_mask hw rfl rfl)
  · exact decodeKind_of_encode_eq (assembleXYN_of_mask hw rfl rfl)
  · exact ⟨_, rfl, writeFlagged_difference s x (s.getV x) (s.getV y)⟩
  · exact ⟨_, rfl, writeFlagged_difference s x (s.getV y) (s.getV x)⟩

/-- Settles O46, by the two writes of R110 and the value of the bit shifted out. -/
theorem shifts : Obligations.Shifts := by
  refine ⟨fun w hw => ?_, fun w hw => ?_, fun s x y => ⟨?_, ?_⟩⟩
  · exact decodeKind_of_encode_eq (assembleXYN_of_mask hw rfl rfl)
  · exact decodeKind_of_encode_eq (assembleXYN_of_mask hw rfl rfl)
  · refine ⟨_, rfl, ?_, fun hx => ?_, frame_regs_writeFlagged s x _ _⟩
    · rw [getV_writeFlagged_self, BitVec.toNat_ushiftRight, Nat.shiftRight_eq_div_pow, Nat.pow_one]
    · rw [getV_writeFlagged_vf s _ _ hx, shrFlag_toNat]
  · refine ⟨_, rfl, ?_, fun hx => ?_, frame_regs_writeFlagged s x _ _⟩
    · rw [getV_writeFlagged_self, trunc8_toNat]
    · rw [getV_writeFlagged_vf s _ _ hx, shlFlag_toNat]

/-- Settles O47: a bit where `kk` has 0 is 0 in the conjunction, and drawing leaves all but the draw count. -/
theorem randomMasked : Obligations.RandomMasked := by
  refine ⟨fun _ hw => decodeKind_of_encode_eq (assembleXK_of_fields (op_of_mask hw rfl) rfl), fun s x kk => ?_⟩
  refine ⟨_, rfl, getV_setV_self _ x _, fun k hk => ?_, rfl, ?_⟩
  · rw [getV_setV_self, BitVec.getLsbD_and, hk, Bool.and_false]
  · exact (frame_consumeDraw rfl).trans (frame_setV (List.mem_singleton_self x) _)

end Sys2Proof.Safety

/-! ## Address register and memory: O48 to O54

The frames of these instructions are known (`exec_frame`), so each statement turns on the value written to `I`,
or on the bytes read back: three stores to consecutive cells, and the two bulk loops. -/

namespace Sys2Proof.Safety

open Sys2Proof.Machine

/-! ### Words of a pattern -/

/-- A word of a pattern `?x??` with fixed `op` and `kk` is these two with its own `x` (30_encoding.md R75). -/
theorem assembleXK_of_mask {w c : Word} {o : Nibble} {kk : Byte} (h : w &&& 0xF0FF = c) (ho : opField c = o)
    (hk : kkField c = kk) : assembleXK o (xField w) kk = w :=
  assembleXK_of_fields ((op_of_mask h rfl).trans ho) ((kk_of_mask h rfl).trans hk)

/-! ### The address register (43_index_memory.md R130 to R132) -/

theorem trunc16_toNat (k : Nat) : (trunc16 k).toNat = k % 65536 := BitVec.toNat_ofNat k 16

/-- The address of a glyph of the font fits `I`, so it does not wrap. -/
theorem glyphAddr_toNat (c : Config.Cfg) {d : Nat} (hd : d ≤ 15) :
    (glyphAddr c d).toNat = c.fontBase.toNat + 5 * d := by
  have hbase := c.fontBase.isLt
  rw [glyphAddr, trunc16_toNat, Config.glyphBytes]
  omega

/-- Settles O48: a 12-bit address fits `I`. -/
theorem movAddress : Obligations.MovAddress :=
  ⟨fun _ hw => decodeKind_of_encode_eq (assembleA_of_fields (op_of_mask hw rfl)),
    fun _ nnn => ⟨_, rfl, zextAddr_toNat nnn, frame_setI rfl _⟩⟩

/-- Settles O49: under either value of the switch the truncation of the sum is its value modulo 65536. -/
theorem addAddress : Obligations.AddAddress := by
  refine ⟨fun _ hw => decodeKind_of_encode_eq (assembleXK_of_mask hw rfl rfl), fun s x => ?_⟩
  refine ⟨_, rfl, ?_, frame_setI rfl _⟩
  rw [State.setI_i]
  split <;> exact trunc16_toNat _

/-- Settles O50, by the two sides of the value 15. -/
theorem fontAddress : Obligations.FontAddress := by
  refine ⟨fun _ hw => decodeKind_of_encode_eq (assembleXK_of_mask hw rfl rfl), fun s x => ?_⟩
  refine ⟨_, rfl, ?_, exec_frame (i := .fontI x) rfl⟩
  split
  · next hle => exact glyphAddr_toNat s.cfg hle
  · rfl

/-! ### The decimal digits (R133) -/

theorem bcdHundreds_toNat (b : Byte) : (bcdHundreds b).toNat = b.toNat / 100 := by
  rw [bcdHundreds, trunc8_toNat]; omega

theorem bcdTens_toNat (b : Byte) : (bcdTens b).toNat = b.toNat / 10 % 10 := by
  rw [bcdTens, trunc8_toNat]; omega

theorem bcdOnes_toNat (b : Byte) : (bcdOnes b).toNat = b.toNat % 10 := by
  rw [bcdOnes, trunc8_toNat]; omega

/-- Within 4096 consecutive bytes a store reaches the one byte at its own offset (20_memory.md R51). -/
theorem memRead_memWrite_add (s : State) (a : Nat) {j k : Nat} (hj : j < 4096) (hk : k < 4096) (b : Byte) :
    (s.memWrite (a + j) b).memRead (a + k) = if j = k then b else s.memRead (a + k) := by
  rw [memRead_memWrite]
  exact if_congr ⟨effAddr_add_inj hj hk, congrArg fun n => effAddr (a + n)⟩ rfl rfl

/-- Three bytes stored one after the other are read back, wherever the addresses wrap. -/
theorem memRead_memWrite_three (s : State) (a : Nat) (b₀ b₁ b₂ : Byte) :
    let t := ((s.memWrite a b₀).memWrite (a + 1) b₁).memWrite (a + 2) b₂
    t.memRead a = b₀ ∧ t.memRead (a + 1) = b₁ ∧ t.memRead (a + 2) = b₂ := by
  have hread : ∀ k, k < 4096 →
      (((s.memWrite (a + 0) b₀).memWrite (a + 1) b₁).memWrite (a + 2) b₂).memRead (a + k) =
        if 2 = k then b₂ else if 1 = k then b₁ else if 0 = k then b₀ else s.memRead (a + k) := by
    intro k hk
    rw [memRead_memWrite_add _ a (by decide) hk, memRead_memWrite_add _ a (by decide) hk,
      memRead_memWrite_add _ a (by decide) hk]
  exact ⟨hread 0 (by decide), hread 1 (by decide), hread 2 (by decide)⟩

/-- Settles O51: the three cells are different, and a digit fits its byte. -/
theorem bcdDigitsStored : Obligations.BcdDigitsStored := by
  refine ⟨fun _ hw => decodeKind_of_encode_eq (assembleXK_of_mask hw rfl rfl), fun s x => ?_⟩
  obtain ⟨hhundreds, htens, hones⟩ := memRead_memWrite_three s s.i.toNat (bcdHundreds (s.getV x))
    (bcdTens (s.getV x)) (bcdOnes (s.getV x))
  exact ⟨_, rfl, (congrArg _ hhundreds).trans (bcdHundreds_toNat _), (congrArg _ htens).trans (bcdTens_toNat _),
    (congrArg _ hones).trans (bcdOnes_toNat _), exec_frame (i := .movBcd x) rfl⟩

/-! ### The bulk moves (R134, R135) -/

section BulkMoves

variable {s : State} {x : Reg}

theorem execMemStore_of_lt (h : s.bulkBound x < 16) : execMemStore x s = .next (s.storeRegs (s.bulkBound x)) :=
  congrArg Host.Outcome.next (if_pos h)

theorem execMemStore_of_ge (h : 16 ≤ s.bulkBound x) : execMemStore x s = .next s :=
  congrArg Host.Outcome.next (if_neg h.not_gt)

theorem execMemLoad_of_lt (h : s.bulkBound x < 16) : execMemLoad x s = .next (s.loadRegs (s.bulkBound x)) :=
  congrArg Host.Outcome.next (if_pos h)

theorem execMemLoad_of_ge (h : 16 ≤ s.bulkBound x) : execMemLoad x s = .next s :=
  congrArg Host.Outcome.next (if_neg h.not_gt)

theorem memRead_storeRegs {m : Nat} (hm : m < 16) {r : Reg} (hr : r.toNat ≤ m) :
    (s.storeRegs m).memRead (s.i.toNat + r.toNat) = s.getV r := by
  obtain ⟨hstored, -⟩ := byteAt_storeRegs s hm
  rw [State.memRead, hstored r.toNat hr, BitVec.ofNat_toNat, BitVec.setWidth_eq]

end BulkMoves

/-- Settles O52, by the two sides of the bound 16. -/
theorem bulkStore : Obligations.BulkStore := by
  refine ⟨fun _ hw => decodeKind_of_encode_eq (assembleXK_of_mask hw rfl rfl), fun s x m hbound => ?_⟩
  obtain rfl : m = s.bulkBound x := hbound
  rcases lt_or_ge (s.bulkBound x) 16 with hlt | hge
  · refine ⟨_, execMemStore_of_lt hlt, fun _ => ⟨fun r hr => memRead_storeRegs hlt hr, ?_⟩,
      fun hge => absurd hlt hge.not_gt⟩
    exact frame_storeRegs hlt fun k hk => effAddr_mem_cellsFrom (Nat.lt_succ_of_le hk)
  · exact ⟨_, execMemStore_of_ge hge, fun hlt => absurd hlt hge.not_gt, fun _ => rfl⟩

/-- Settles O53, by the two sides of the bound 16. -/
theorem bulkLoad : Obligations.BulkLoad := by
  refine ⟨fun _ hw => decodeKind_of_encode_eq (assembleXK_of_mask hw rfl rfl), fun s x m hbound => ?_⟩
  obtain rfl : m = s.bulkBound x := hbound
  rcases lt_or_ge (s.bulkBound x) 16 with hlt | hge
  · refine ⟨_, execMemLoad_of_lt hlt, fun _ => ⟨fun r hr => ?_, ?_⟩, fun hge => absurd hlt hge.not_gt⟩
    · rw [getV_loadRegs s hlt, if_pos hr]
    · exact frame_loadRegs hlt fun _ hr => mem_map_ofNat_of_toNat_le hr
  · exact ⟨_, execMemLoad_of_ge hge, fun hlt => absurd hlt hge.not_gt, fun _ => rfl⟩

/-! ### `I` after an access (R136) -/

theorem Frame.i_eq {f : Touched} {s t : State} (h : Frame f s t) (hf : f.i = false) : t.i = s.i := by
  obtain ⟨-, hi, -⟩ := h
  exact hi hf

/-- Settles O54: `touches` lets none of the four change `I`. -/
theorem memoryInstructionsKeepI : Obligations.MemoryInstructionsKeepI := fun _ x y n =>
  ⟨_, _, _, _, rfl, rfl, rfl, rfl, (exec_frame (i := .drw x y n) rfl).i_eq rfl,
    (exec_frame (i := .movBcd x) rfl).i_eq rfl, (exec_frame (i := .memStore x) rfl).i_eq rfl,
    (exec_frame (i := .memLoad x) rfl).i_eq rfl⟩

end Sys2Proof.Safety

/-! ## Display: O33, O55 to O57

The display is written and never read (44_display.md R143): with another display in its place an instruction
that leaves the display alone does the same to the rest and keeps the other one, and the two that write it,
`CLS` and `DRW`, write nothing else. A sprite flips the cells of its pixels (`spritePixel`), so the same sprite
drawn again flips them back. -/

namespace Sys2Proof.Safety

open Sys2Proof.Machine

/-! ### Replacing the display -/

theorem skipIf_setDisp (s : State) (b : Bool) (d : Display) : (s.setDisp d).skipIf b = (s.skipIf b).setDisp d := by
  cases b <;> rfl

theorem storeRegs_setDisp (s : State) (m : Nat) (d : Display) :
    (s.setDisp d).storeRegs m = (s.storeRegs m).setDisp d :=
  List.foldl_hom (State.setDisp · d) fun _ _ => rfl

theorem loadRegs_setDisp (s : State) (m : Nat) (d : Display) :
    (s.setDisp d).loadRegs m = (s.loadRegs m).setDisp d :=
  List.foldl_hom (State.setDisp · d) fun _ _ => rfl

theorem romLoad_setDisp (s : State) (base : Nat) (bytes : List Byte) (d : Display) :
    (s.setDisp d).romLoad base bytes = (s.romLoad base bytes).setDisp d := by
  induction bytes generalizing s base with
  | nil => rfl
  | cons b bs ih =>
    simp only [State.romLoad]
    split
    · exact ih (s.memWrite base b) (base + 1)
    · rfl

/-- An instruction that does not write the display commutes with replacing it. -/
theorem exec_setDisp {i : Instr} {s t : State} (hi : (touches i s).disp = false) (h : exec i s = .next t)
    (d : Display) : exec i (s.setDisp d) = .next (t.setDisp d) := by
  cases i with
  | cls | drw => cases hi
  | ret =>
    rcases execRet_cases s with ⟨w, ws, hs, hr⟩ | ⟨hs, hr⟩ <;> cases hr.symm.trans h
    · exact execRet_of_stack_cons (s := s.setDisp d) hs
    · exact execRet_of_stack_nil (s := s.setDisp d) hs
  | call nnn =>
    rcases execCall_cases nnn s with ⟨hlt, hc⟩ | ⟨hge, hc⟩ <;> cases hc.symm.trans h
    · exact execCall_of_length_lt (s := s.setDisp d) hlt nnn
    · exact execCall_of_length_ge (s := s.setDisp d) hge nnn
  | skipEImm | skipNeImm | skipEReg | skipNeReg | skipKy | skipKn =>
    cases h
    exact congrArg Host.Outcome.next (skipIf_setDisp s _ d)
  | waitKey | fontI =>
    cases h
    symm
    exact congrArg Host.Outcome.next (apply_ite (State.setDisp · d) ..)
  | memStore x =>
    rcases lt_or_ge (s.bulkBound x) 16 with hlt | hge
    · cases (execMemStore_of_lt hlt).symm.trans h
      rw [← storeRegs_setDisp]
      exact execMemStore_of_lt (s := s.setDisp d) hlt
    · cases (execMemStore_of_ge hge).symm.trans h
      exact execMemStore_of_ge (s := s.setDisp d) hge
  | memLoad x =>
    rcases lt_or_ge (s.bulkBound x) 16 with hlt | hge
    · cases (execMemLoad_of_lt hlt).symm.trans h
      rw [← loadRegs_setDisp]
      exact execMemLoad_of_lt (s := s.setDisp d) hlt
    · cases (execMemLoad_of_ge hge).symm.trans h
      exact execMemLoad_of_ge (s := s.setDisp d) hge
  | jump | jumpV0 | movImm | addImm | movReg | orReg | andReg | xorReg | addReg | subReg | subnReg | shr | shl
  | rndmsk | movFromDelay | movI | addI | movDelay | movSound | movBcd => cases h; rfl

/-! ### Nothing reads the display (R143) -/

/-- With any other display, `f` leads from `s` to a state that differs at most in the display. -/
def DispUnread (f : State → Host.Outcome State Fault Refusal) (s : State) : Prop :=
  ∀ t d, f s = .next t → ∃ t', f (s.setDisp d) = .next t' ∧ SameButDisp t t'

theorem exec_dispUnread (i : Instr) (s : State) : DispUnread (exec i) s := by
  intro t d h
  cases hi : (touches i s).disp with
  | false => exact ⟨_, exec_setDisp hi h d, rfl⟩
  | true =>
    obtain ⟨x, y, n, rfl | rfl⟩ := writer_of_touches_disp hi <;> cases h <;> exact ⟨_, rfl, rfl⟩

theorem cycle_dispUnread (s : State) : DispUnread cycle s := by
  intro t d h
  rcases cycle_cases s with ⟨hpc, hc⟩ | ⟨hpc, hc⟩ | ⟨i, hpc, hi, hc⟩ | ⟨hpc, hk, hc⟩
  · cases hc.symm.trans h
    exact ⟨_, cycle_of_pc_gt (s := s.setDisp d) hpc, rfl⟩
  · cases hc.symm.trans h
    exact ⟨_, cycle_of_pc_eq (s := s.setDisp d) hpc, rfl⟩
  · obtain ⟨t', ht', hsame⟩ := exec_dispUnread i s.advance t d (hc.symm.trans h)
    exact ⟨t', (cycle_of_instr (s := s.setDisp d) hpc hi).trans ht', hsame⟩
  · cases hc.symm.trans h
    exact ⟨_, cycle_of_unknown (s := s.setDisp d) hpc hk, rfl⟩

theorem applyEvent_dispUnread (e : Event) (s : State) : DispUnread (applyEvent e) s := by
  intro t d h
  obtain ⟨hrun, hsingle, -⟩ := runAndSingleStepByPaused (s.setDisp d)
  rcases applyEvent_cases h with ⟨hc, hgate⟩ | ⟨rfl, rfl⟩ | ⟨k, rfl, rfl⟩ | ⟨b, rfl, rfl⟩ | ⟨rfl, rfl⟩ |
    ⟨base, bytes, rfl, rfl⟩
  · obtain ⟨t', ht', hsame⟩ := cycle_dispUnread s t d hc
    rcases hgate with ⟨rfl, hp⟩ | ⟨rfl, hp⟩
    · exact ⟨t', (hrun hp).1.trans ht', hsame⟩
    · exact ⟨t', (hsingle hp).1.trans ht', hsame⟩
  · exact ⟨_, rfl, rfl⟩
  · exact ⟨_, rfl, rfl⟩
  · cases b <;> exact ⟨_, rfl, rfl⟩
  · exact ⟨_, rfl, rfl⟩
  · exact ⟨_, congrArg Host.Outcome.next (romLoad_setDisp s base bytes d), rfl⟩

theorem step_dispUnread (s : State) : DispUnread step s := by
  intro t d h
  rcases step_cases s with ⟨e, es, hinputs, hs⟩ | ⟨hinputs, hp, hs⟩ | ⟨hinputs, hp, hs⟩
  · obtain ⟨t', ht', hsame⟩ := applyEvent_dispUnread e { s with inputs := es } t d (hs.symm.trans h)
    exact ⟨t', (step_of_inputs_cons (s := s.setDisp d) hinputs).trans ht', hsame⟩
  · obtain ⟨t', ht', hsame⟩ := cycle_dispUnread s t d (hs.symm.trans h)
    exact ⟨t', (step_of_inputs_nil (s := s.setDisp d) hinputs hp).trans ht', hsame⟩
  · cases hs.symm.trans h
    obtain ⟨-, hsingle, hidle⟩ := runAndSingleStepByPaused (s.setDisp d)
    exact ⟨_, hidle hp hinputs, rfl⟩

/-- Settles O33: the second state is the first with another display, which no step reads. -/
theorem displayIsNeverRead : Obligations.DisplayIsNeverRead := by
  intro s s' t hsame ht
  have hs' : s' = s.setDisp s'.disp := hsame
  rw [hs']
  exact step_dispUnread s t s'.disp ht

/-! ### The two writers of the display (R140, R141) -/

/-- Settles O55: what `CLS` writes has every cell off. -/
theorem clearScreen : Obligations.ClearScreen :=
  ⟨fun _ hw => decodeKind_of_encode_eq (assembleXK_of_mask hw rfl rfl),
    fun _ _ => ⟨_, rfl, dispCell_dispClear, frame_setDisp rfl _⟩⟩

section Sprite

variable (s : State) (left top n : Nat)

/-- The sprite of `n` rows at `I`, its left edge at `left` and its top edge at `top`, has a pixel at the cell
(`row`, `col`): bit 7 of a row byte is the leftmost (R141, decision D17). -/
def spritePixel (row col : Nat) : Bool :=
  decide (top ≤ row) && decide (row < top + n) && decide (left ≤ col) && decide (col < left + 8) &&
    (s.memRead (s.i.toNat + (row - top))).getLsbD (7 - (col - left))

theorem drawSprite_succ : s.drawSprite left top (n + 1) =
    spriteRow left (top + n) (s.memRead (s.i.toNat + n)) (s.drawSprite left top n) := by
  simp only [State.drawSprite, List.range_succ, List.foldl_append, List.foldl_cons, List.foldl_nil]

/-- A sprite row with byte `b`, drawn at display row `r` from column `left` on, has a pixel at (`row`, `col`). -/
def rowPixel (left r : Nat) (b : Byte) (row col : Nat) : Bool :=
  decide (row = r) && decide (left ≤ col) && decide (col < left + 8) && b.getLsbD (7 - (col - left))

/-- One more row adds its own pixels, which no row before it has. -/
theorem spritePixel_succ (row col : Nat) : spritePixel s left top (n + 1) row col =
    (spritePixel s left top n row col ^^ rowPixel left (top + n) (s.memRead (s.i.toNat + n)) row col) := by
  by_cases hlast : row = top + n
  · simp [spritePixel, rowPixel, hlast]
  · have hrow : row < top + (n + 1) ↔ row < top + n := by omega
    simp [spritePixel, rowPixel, hlast, hrow]

theorem dispCell_spriteRow_eq_xor {row col : Nat} (hrow : row < 32) (hcol : col < 64) (left r : Nat) (b : Byte)
    (d : Display) :
    dispCell (spriteRow left r b d) row col = (dispCell d row col ^^ rowPixel left r b row col) := by
  have hiff : rowPixel left r b row col = true ↔ row = r ∧ row < 32 ∧ col < 64 ∧ left ≤ col ∧ col < left + 8 ∧
      b.getLsbD (7 - (col - left)) = true := by
    simp [rowPixel, hrow, hcol, and_assoc]
  rw [dispCell_spriteRow, if_congr hiff.symm rfl rfl]
  cases rowPixel left r b row col <;> simp

/-- A cell of the grid flips exactly where the sprite has a pixel. -/
theorem dispCell_drawSprite {row col : Nat} (hrow : row < 32) (hcol : col < 64) :
    dispCell (s.drawSprite left top n) row col =
      (dispCell s.disp row col ^^ spritePixel s left top n row col) := by
  induction n with
  | zero =>
    have hempty : spritePixel s left top 0 row col = false := by simp [spritePixel]
    rw [hempty, Bool.xor_false]; rfl
  | succ n ih => rw [drawSprite_succ, dispCell_spriteRow_eq_xor hrow hcol, ih, spritePixel_succ, Bool.xor_assoc]

/-- A sprite drawn again flips back what it flipped, clipped cells included (R141 corner case (f)). -/
theorem drawSprite_setDisp_drawSprite :
    (s.setDisp (s.drawSprite left top n)).drawSprite left top n = s.disp := by
  refine display_ext fun row col => ?_
  by_cases hgrid : row < 32 ∧ col < 64
  · obtain ⟨hrow, hcol⟩ := hgrid
    have hpixel : spritePixel (s.setDisp (s.drawSprite left top n)) left top n row col =
        spritePixel s left top n row col := rfl
    rw [dispCell_drawSprite _ _ _ _ hrow hcol, State.setDisp_disp, dispCell_drawSprite _ _ _ _ hrow hcol, hpixel,
      Bool.xor_assoc, Bool.xor_self, Bool.xor_false]
  · rw [dispCell_outside _ hgrid, dispCell_outside _ hgrid]

end Sprite

/-- Settles O56, row by row of the sprite. -/
theorem drawSprite : Obligations.DrawSprite :=
  ⟨fun _ hw => decodeKind_of_encode_eq (assembleXYN_of_fields (op_of_mask hw rfl) rfl),
    fun s _ _ _ => ⟨_, rfl, fun _ _ hrow hcol => dispCell_drawSprite s _ _ _ hrow hcol, frame_setDisp rfl _⟩⟩

/-- Settles O57: the first drawing leaves alone all that the second one reads, and the display comes back. -/
theorem drawTwiceRestores : Obligations.DrawTwiceRestores := fun s _ _ _ =>
  ⟨_, _, rfl, rfl, congrArg s.setDisp (drawSprite_setDisp_drawSprite s _ _ _)⟩

end Sys2Proof.Safety

/-! ## Keys and timers: O24, O25, O58 to O60

The key index of a skip is the value of `V[x]`, all 8 bits of it (45_keys_timers.md R150). A timer holds its own
truncated predecessor after a tick (R156), and the other instructions each write one register or one timer. -/

namespace Sys2Proof.Safety

open Sys2Proof.Machine

/-! ### Events (10_state.md R33) -/

/-- The predecessor of a byte fits a byte, and 0 stays 0 (R156). -/
theorem tickDown_toNat (b : Byte) : (tickDown b).toNat = b.toNat - 1 := by
  rw [tickDown]
  split
  · next hpos => exact BitVec.toNat_sub_of_le (BitVec.le_def.mpr hpos)
  · omega

/-- Settles O24: both timers tick down to the floor 0. -/
theorem timerTickCountsDown : Obligations.TimerTickCountsDown := fun s =>
  ⟨_, rfl, tickDown_toNat s.dt, tickDown_toNat s.st, (frame_setDt rfl _).trans (frame_setSt rfl _)⟩

/-- Settles O25: `setKeys` is the update of the one field. -/
theorem keySetReplacesKeys : Obligations.KeySetReplacesKeys := fun _ _ => rfl

/-! ### Key skips (R150, R151) -/

theorem keyDown_eq_true_iff (s : State) (k : Nat) :
    s.keyDown k = true ↔ k ≤ 15 ∧ s.keys.toNat / 2 ^ k % 2 = 1 := by
  rw [State.keyDown, Bool.and_eq_true, decide_eq_true_iff, BitVec.getLsbD, Nat.testBit_eq_decide_div_mod_eq,
    decide_eq_true_iff]

theorem skipIf_pc (s : State) (c : Bool) : (s.skipIf c).pc = if c = true then s.pc + 2 else s.pc := by
  rcases skipIf_cases s c with ⟨rfl, hc⟩ | ⟨rfl, hc⟩ <;> rw [hc] <;> rfl

theorem skipIf_not_pc (s : State) (c : Bool) : (s.skipIf !c).pc = if c = true then s.pc else s.pc + 2 := by
  cases c <;> rfl

/-- Settles O58, by the condition on the key's bit and its complement. -/
theorem keySkips : Obligations.KeySkips := by
  refine ⟨fun w hw => ?_, fun w hw => ?_, fun s x => ⟨?_, ?_⟩⟩
  · exact decodeKind_of_encode_eq (assembleXK_of_mask hw rfl rfl)
  · exact decodeKind_of_encode_eq (assembleXK_of_mask hw rfl rfl)
  · exact ⟨_, rfl, (skipIf_pc s _).trans (if_congr (keyDown_eq_true_iff s _) rfl rfl), frame_skipIf rfl _⟩
  · exact ⟨_, rfl, (skipIf_not_pc s _).trans (if_congr (keyDown_eq_true_iff s _) rfl rfl), frame_skipIf rfl _⟩

/-! ### `WAITKEY` (R153) -/

theorem execWaitKey_of_keys_eq_zero {s : State} (h : s.keys = 0) (x : Reg) :
    execWaitKey x s = .next (s.setPc (s.pc - 2)) :=
  congrArg Host.Outcome.next (if_pos h)

theorem execWaitKey_of_keys_ne_zero {s : State} (h : s.keys ≠ 0) (x : Reg) :
    execWaitKey x s = .next (s.setV x (s.keys.extractLsb' 0 8)) :=
  congrArg Host.Outcome.next (if_neg h)

/-- Settles O59, by whether a key is down. -/
theorem waitKey : Obligations.WaitKey := by
  refine ⟨fun w hw => ?_, fun s x hnone => ?_, fun s x hsome => ?_⟩
  · exact decodeKind_of_encode_eq (assembleXK_of_mask hw rfl rfl)
  · exact ⟨_, execWaitKey_of_keys_eq_zero hnone x, rfl, frame_setPc rfl _⟩
  · exact ⟨_, execWaitKey_of_keys_ne_zero hsome x, (congrArg BitVec.toNat (getV_setV_self s x _)).trans
      (loByte_toNat s.keys), frame_regs_setV s x _⟩

/-! ### Timer moves (R152, R154, R155) -/

/-- Settles O60: the first writes one register and the other two write one timer each. -/
theorem timerMoves : Obligations.TimerMoves := by
  refine ⟨fun w hw => ?_, fun w hw => ?_, fun w hw => ?_, fun s x => ⟨?_, ?_, ?_⟩⟩
  · exact decodeKind_of_encode_eq (assembleXK_of_mask hw rfl rfl)
  · exact decodeKind_of_encode_eq (assembleXK_of_mask hw rfl rfl)
  · exact decodeKind_of_encode_eq (assembleXK_of_mask hw rfl rfl)
  · exact ⟨_, rfl, getV_setV_self s x s.dt, frame_regs_setV s x s.dt⟩
  · exact ⟨_, rfl, State.setDt_dt s _, frame_setDt rfl _⟩
  · exact ⟨_, rfl, State.setSt_st s _, frame_setSt rfl _⟩

end Sys2Proof.Safety

/-! ## Halts: O16, O29

Of the instructions, only `RET` on an empty stack and `CALL` on a full one halt (41_flow.md R100, R102): the frame of
every other one leaves the run control alone. A `pc` past 0xFFE stays, since the fetch guard changes nothing but the
run control (60_exceptions.md R179). -/

namespace Sys2Proof.Safety

open Sys2Proof.Machine

/-! ### The halts of an instruction (60_exceptions.md R170) -/

theorem Frame.runControl_eq {f : Touched} {s t : State} (h : Frame f s t) (hf : f.halt = false) :
    t.paused = s.paused ∧ t.cause = s.cause := by
  obtain ⟨-, -, -, -, -, -, -, hhalt, -⟩ := h
  exact hhalt hf

/-- An instruction that does not meet its halt condition keeps `PAUSED` and `CAUSE`. -/
theorem exec_runControl_eq {i : Instr} {s t : State} (hret : ∀ x, i = .ret x → s.stack ≠ [])
    (hcall : ∀ nnn, i = .call nnn → s.stack.length < 16) (h : exec i s = .next t) :
    t.paused = s.paused ∧ t.cause = s.cause := by
  cases i with
  | ret x =>
    rcases execRet_cases s with ⟨w, ws, -, hr⟩ | ⟨hs, -⟩
    · cases hr.symm.trans h; exact ⟨rfl, rfl⟩
    · exact absurd hs (hret x rfl)
  | call nnn =>
    rcases execCall_cases nnn s with ⟨-, hc⟩ | ⟨hfull, -⟩
    · cases hc.symm.trans h; exact ⟨rfl, rfl⟩
    · exact absurd (hcall nnn rfl) (Nat.not_lt.mpr hfull)
  | _ => exact (exec_frame h).runControl_eq rfl

/-- Settles O16: the two guards, the two halting instructions, and the cycles that reach neither. -/
theorem haltsExactly : Obligations.HaltsExactly := by
  refine fun s => ⟨cycle_of_pc_gt, fun hpc => ?_, fun x hpc hi hs => ?_, fun nnn hpc hi hs => ?_,
    fun hpc hret hcall => ?_⟩
  · have hadv : s.pc + 2 = 0x1000 := BitVec.eq_of_toNat_eq (by rw [BitVec.toNat_add, hpc]; rfl)
    rw [← hadv]
    exact cycle_of_pc_eq hpc
  · exact (cycle_of_instr hpc hi).trans (execRet_of_stack_nil (s := s.advance) hs)
  · exact (cycle_of_instr hpc hi).trans (execCall_of_length_ge (s := s.advance) hs.ge nnn)
  · cases hk : decodeKind s.fetchWord with
    | unknown => exact ⟨_, cycle_of_unknown hpc hk, rfl, rfl⟩
    | instr i =>
      obtain ⟨hcompletes, -⟩ := everyCycleCompletes
      obtain ⟨t, ht⟩ := hcompletes s
      have hexec : exec i s.advance = .next t := (cycle_of_instr hpc hk).symm.trans ht
      have hpops : ∀ x, i = .ret x → s.advance.stack ≠ [] := fun x hx hs => hret x ⟨hx ▸ hk, hs⟩
      have hroom : ∀ nnn, i = .call nnn → s.advance.stack.length < 16 :=
        fun nnn hn => Nat.lt_of_not_le fun hfull => hcall nnn ⟨hn ▸ hk, hfull⟩
      exact ⟨t, ht, exec_runControl_eq (s := s.advance) hpops hroom hexec⟩

/-! ### A `pc` past the last word (R179) -/

theorem cycle_pc_eq_of_pc_gt {s t : State} (hpc : s.pc.toNat > 0xFFE) (h : cycle s = .next t) : t.pc = s.pc := by
  cases (cycle_of_pc_gt hpc).symm.trans h; rfl

theorem romLoad_pc (s : State) (base : Nat) (bytes : List Byte) : (s.romLoad base bytes).pc = s.pc := by
  rw [romLoad_eq]

theorem setPause_pc (s : State) (b : Bool) : (s.setPause b).pc = s.pc := by
  cases b <;> rfl

theorem applyEvent_pc_eq_of_pc_gt {e : Event} {s t : State} (hpc : s.pc.toNat > 0xFFE) (he : e ≠ .reset)
    (h : applyEvent e s = .next t) : t.pc = s.pc := by
  rcases applyEvent_cases h with ⟨hc, -⟩ | ⟨-, rfl⟩ | ⟨k, -, rfl⟩ | ⟨b, -, rfl⟩ | ⟨hreset, -⟩ | ⟨base, bytes, -, rfl⟩
  · exact cycle_pc_eq_of_pc_gt hpc hc
  · rfl
  · rfl
  · exact setPause_pc s b
  · exact absurd hreset he
  · exact romLoad_pc s base bytes

/-- Settles O29: a listed event other than `Reset` keeps such a `pc`, and so does the default step. -/
theorem onlyResetMovesAnOutOfRangePc : Obligations.OnlyResetMovesAnOutOfRangePc := by
  intro s t hpc hreset hstep
  rcases step_cases s with ⟨e, es, hin, hs⟩ | ⟨-, -, hs⟩ | ⟨-, -, hs⟩
  · have he : e ≠ .reset := fun heq => hreset (by rw [hin, heq]; rfl)
    exact applyEvent_pc_eq_of_pc_gt (s := { s with inputs := es }) hpc he (hs.symm.trans hstep)
  · exact cycle_pc_eq_of_pc_gt hpc (hs.symm.trans hstep)
  · cases hs.symm.trans hstep; rfl

end Sys2Proof.Safety

/-! ## Reset and the end of a run: O22, O30

The Reset event leaves the state of a machine right after reset, with the configuration it had (70_reset_and_hazards.md
R190). A run ends in a `JUMP` to itself (R196): the cycle advances `pc`, and the jump takes it back. -/

namespace Sys2Proof.Safety

open Sys2Proof.Machine

/-! ### What reset leaves (R190) -/

theorem getV_resetEvent (s : State) (r : Reg) : s.resetEvent.getV r = 0x00 := Vector.getElem_replicate _

theorem dispCell_resetEvent (s : State) (row col : Nat) : dispCell s.resetEvent.disp row col = false :=
  dispCell_dispClear row col

/-- Reset lists no cell, so each one reads as its reset contents. -/
theorem byteAt_resetEvent (s : State) (a : Nat) : s.resetEvent.byteAt a = resetByte s.cfg a := rfl

/-- Settles O22: the registers, the display and memory cell by cell, every other field by the event's definition. -/
theorem resetEventLeaves : Obligations.ResetEventLeaves := fun s =>
  ⟨s.resetEvent, rfl, getV_resetEvent s, rfl, rfl, rfl, rfl, rfl, dispCell_resetEvent s, rfl, rfl, rfl,
    fun a _ => byteAt_resetEvent s a, rfl, rfl, rfl⟩

/-! ### The end of a run (R196) -/

theorem ended_iff (s : State) :
    ended s = true ↔ s.paused = false ∧ s.pc.toNat ≤ 0xFFD ∧ s.fetchWord = 0x1000 ||| s.pc := by
  simp [ended, and_assoc]

/-- A 16-bit address of one of the 4096 cells is its low 12 bits, zero-extended. -/
theorem zextAddr_nnnField_of_lt {a : Word} (h : a.toNat < 4096) : zextAddr (nnnField a) = a := by
  apply BitVec.eq_of_toNat_eq
  rw [zextAddr_toNat, nnnField_toNat, Nat.mod_eq_of_lt h]

theorem encode_jump_eq_or (nnn : Addr12) : (Instr.jump nnn).encode = 0x1000 ||| zextAddr nnn := rfl

/-- The word `0x1000 ||| a` is a jump to `a`. -/
theorem decodeKind_or_of_lt {a : Word} (h : a.toNat < 4096) :
    decodeKind (0x1000 ||| a) = .instr (.jump (nnnField a)) :=
  decodeKind_of_encode_eq ((encode_jump_eq_or _).trans (congrArg (0x1000 ||| ·) (zextAddr_nnnField_of_lt h)))

/-- A jump to the address it is fetched from undoes the advance of `pc`. -/
theorem exec_jump_advance {s : State} {nnn : Addr12} (h : zextAddr nnn = s.pc) :
    exec (.jump nnn) s.advance = .next s := by
  have hjump : exec (.jump nnn) s.advance = .next (s.setPc (zextAddr nnn)) := rfl
  rw [hjump, h]
  rfl

/-- Settles O30: the step is a cycle, the word it fetches is a jump, and the jump's target is `pc`. -/
theorem endedRunStays : Obligations.EndedRunStays := by
  intro s hended hnone
  obtain ⟨hrunning, hpc, hword⟩ := (ended_iff s).mp hended
  have hcell : s.pc.toNat < 4096 := by omega
  have hdecode : decodeKind s.fetchWord = .instr (.jump (nnnField s.pc)) :=
    (congrArg decodeKind hword).trans (decodeKind_or_of_lt hcell)
  calc step s = cycle s := step_of_inputs_nil hnone hrunning
    _ = exec (.jump (nnnField s.pc)) s.advance := cycle_of_instr hpc hdecode
    _ = .next s := exec_jump_advance (zextAddr_nnnField_of_lt hcell)

end Sys2Proof.Safety
